-- ==== Sys2Proof/Word.lean ====
section
/-! DEFINITION. The word types of the engine (spec/10_state.md R20, spec/00_scope.md R9: every value is
unsigned) and the bits of a byte in slot order. -/

namespace Sys2Proof

/-- A byte on the bus, of a buffer, or of an identifier. -/
abbrev Byte := BitVec 8

/-- A host-visible register word (R35). -/
abbrev Word := BitVec 32

/-- The cursor's accumulator: bit `i` is bit position `i + 1` of an identifier (R22, R64). -/
abbrev Acc := BitVec 64

/-- The cursor's `last_discrepancy` in its 7-bit encoding (R21). -/
abbrev Discrepancy := BitVec 7

/-- The bits of a byte in the order of its slots, bit 0 first (R66). -/
def Byte.slots (v : Byte) : List Bool := (List.range 8).map v.getLsbD

/-- The byte whose bits, bit 0 first, are the first eight of a list (R66). A missing bit counts as 1, which
is what a slot nobody drives reads (R73). -/
def Byte.ofSlots (bs : List Bool) : Byte :=
  BitVec.ofNat 8 ((List.range 8).foldl (fun n i => n + if bs.getD i true then 2 ^ i else 0) 0)

end Sys2Proof
end

