-- ==== Sys2Proof/Syntax.lean ====
section
/-! DEFINITION. The eleven operations (spec/30_encoding.md R105, one constructor per row of
spec/opcode_table.json) and the fields of the command word `C16` that names one (R104). -/

namespace Sys2Proof

/-- One engine operation, as one write to `CMD` names it. `alarm` is the bit `A`, `resp` the bit `R`, `fam`
the field `FAM` (R104). All other arguments travel in registers (R106). -/
inductive Instr where
  | searchPass (alarm : Bool) (fam : Byte)
  | searchAll (alarm : Bool) (fam : Byte)
  | readId
  | matchId
  | skip
  | resume
  | resetSelect
  | writeRead (resp : Bool)
  | acquire
  | release
  | scan (alarm : Bool) (fam : Byte)
  deriving DecidableEq, Repr

/-- The fields of a 32-bit write to `CMD`: the command word of R104 in bits 15:0, and bits 31:16, which must
be 0 (R35). Any value of the fields is a word; `CmdFields.wf` says which words name an operation. -/
structure CmdFields where
  /-- bits 3:0 -/
  op : BitVec 4
  /-- bit 4, `A` -/
  a : Bool
  /-- bit 5, `R` -/
  r : Bool
  /-- bits 7:6, reserved -/
  reserved : BitVec 2
  /-- bits 15:8, `FAM` -/
  fam : Byte
  /-- bits 31:16 of the register write -/
  high : BitVec 16
  deriving DecidableEq, Repr

/-- Why a command word is illegal, one name for each clause of R107. -/
inductive Illegal where
  | highBits
  | reservedOpcode
  | reservedBits
  | alarmUnused
  | respUnused
  | famUnused
  deriving DecidableEq, Repr

end Sys2Proof
end

