-- ==== Sys2Proof/WellFormed.lean ====
section
/-! DEFINITION. Which command words name an operation (spec/30_encoding.md R107). An `Instr` cannot be
ill-formed: its operands are typed by the width of their fields. What can be ill-formed is a word, so the
checks are on its fields. -/

namespace Sys2Proof

/-- The operation codes of R105: 1h to Bh; 0h and Ch to Fh are reserved. -/
def opDefined (op : BitVec 4) : Bool := 1 ≤ op.toNat && op.toNat ≤ 11

/-- SEARCH_PASS, SEARCH_ALL and SCAN use `A` and accept `FAM` (R104). -/
def opSearches (op : BitVec 4) : Bool := op == 1 || op == 2 || op == 11

/-- WRITE_READ alone uses `R` (R104). -/
def opResponds (op : BitVec 4) : Bool := op == 8

/-- The first clause of R107 that the fields break, if any. -/
def CmdFields.illegal (f : CmdFields) : Option Illegal :=
  if f.high ≠ 0 then some .highBits
  else if !opDefined f.op then some .reservedOpcode
  else if f.reserved ≠ 0 then some .reservedBits
  else if f.a && !opSearches f.op then some .alarmUnused
  else if f.r && !opResponds f.op then some .respUnused
  else if f.fam ≠ 0 && !opSearches f.op then some .famUnused
  else none

/-- The fields name an operation. -/
def CmdFields.wf (f : CmdFields) : Bool := f.illegal.isNone

end Sys2Proof
end

