-- ==== Sys2Proof/Decode.lean ====
section
/-! DEFINITION. The decoder of a write to `CMD` (spec/30_encoding.md R104, R105, R107), total on all 32-bit
words and rejecting by name, and the encoder written from the same table. -/

namespace Sys2Proof

/-- Cut a word into the fields of R104. -/
def CmdFields.ofWord (w : Word) : CmdFields where
  op := w.extractLsb' 0 4
  a := w.getLsbD 4
  r := w.getLsbD 5
  reserved := w.extractLsb' 6 2
  fam := w.extractLsb' 8 8
  high := w.extractLsb' 16 16

/-- Put the fields of R104 into a word. -/
def CmdFields.toWord (f : CmdFields) : Word :=
  f.high ++ f.fam ++ f.reserved ++ BitVec.ofBool f.r ++ BitVec.ofBool f.a ++ f.op

/-- The operation of legal fields, by the codes of R105. -/
def CmdFields.instr (f : CmdFields) : Option Instr :=
  match f.op.toNat with
  | 1 => some (.searchPass f.a f.fam)
  | 2 => some (.searchAll f.a f.fam)
  | 3 => some .readId
  | 4 => some .matchId
  | 5 => some .skip
  | 6 => some .resume
  | 7 => some .resetSelect
  | 8 => some (.writeRead f.r)
  | 9 => some .acquire
  | 10 => some .release
  | 11 => some (.scan f.a f.fam)
  | _ => none

/-- Decode a 32-bit write to `CMD` (R109 step 2): the operation, or the clause of R107 it breaks. -/
def decode (w : Word) : Except Illegal Instr :=
  let f := CmdFields.ofWord w
  match f.illegal with
  | some why => .error why
  | none =>
    match f.instr with
    | some i => .ok i
    | none => .error .reservedOpcode

/-- The fields of an operation's command word: `OP | A<<4 | R<<5 | FAM<<8` (R110). -/
def Instr.fields : Instr → CmdFields
  | .searchPass a f => { op := 1, a := a, r := false, reserved := 0, fam := f, high := 0 }
  | .searchAll a f => { op := 2, a := a, r := false, reserved := 0, fam := f, high := 0 }
  | .readId => { op := 3, a := false, r := false, reserved := 0, fam := 0, high := 0 }
  | .matchId => { op := 4, a := false, r := false, reserved := 0, fam := 0, high := 0 }
  | .skip => { op := 5, a := false, r := false, reserved := 0, fam := 0, high := 0 }
  | .resume => { op := 6, a := false, r := false, reserved := 0, fam := 0, high := 0 }
  | .resetSelect => { op := 7, a := false, r := false, reserved := 0, fam := 0, high := 0 }
  | .writeRead r => { op := 8, a := false, r := r, reserved := 0, fam := 0, high := 0 }
  | .acquire => { op := 9, a := false, r := false, reserved := 0, fam := 0, high := 0 }
  | .release => { op := 10, a := false, r := false, reserved := 0, fam := 0, high := 0 }
  | .scan a f => { op := 11, a := a, r := false, reserved := 0, fam := f, high := 0 }

/-- The 32-bit register write that issues an operation. -/
def encode (i : Instr) : Word := i.fields.toWord

/-- An operation is well-formed when its word is legal. Every `Instr` is (Laws/Decode.lean). -/
def Instr.wf (i : Instr) : Bool := i.fields.wf

/-- The operation the decoder reads from the first `nbits` bits of `w`, the bits above being 0. -/
def decodeTableWord (nbits w : Nat) : Option Instr :=
  match decode (BitVec.ofNat 32 (w % 2 ^ nbits)) with
  | .ok i => some i
  | .error _ => none

end Sys2Proof
end

