-- ==== Sys2Proof/Config.lean ====
section
/-! DEFINITION. The implementation parameters (spec/00_scope.md R8) and the values the spec leaves open.
What the spec leaves open without a default is an opaque constant: nothing can be proved of its value. -/

namespace Sys2Proof

/-- Which checksum function stands behind the checksum port. `reference` is the function of R82; `external`
is any total function at all (D20), of which nothing is known. -/
inductive ChecksumUnit where
  | reference
  | external
  deriving DecidableEq, Repr

/-- The parameters of R8 whose value the spec does not fix. They are wired into one machine: no step writes
them. A capacity that is `none` is unbounded. -/
structure Params where
  /-- wire byte of the normal search command -/
  cmdSearchRom : Byte
  /-- wire byte of the alarm search command -/
  cmdAlarmSearch : Byte
  cmdReadRom : Byte
  cmdMatchRom : Byte
  cmdSkipRom : Byte
  cmdResume : Byte
  /-- family byte that needs an explicit sleep request (OPEN, D21) -/
  quirkFamily : Byte
  /-- the "single vendor low-power command byte" (OPEN, D21) -/
  quirkSleepCmd : Byte
  checksum : ChecksumUnit
  /-- the capacity of the scan record (OPEN, D18) -/
  scanCap : Option Nat
  /-- the longest command block and the longest response block of WRITE_READ (OPEN, D24) -/
  txMax : Option Nat
  rxMax : Option Nat
  /-- the settle delay of ACQUIRE (OPEN, D22; no rule depends on it) -/
  tSettle : Nat
  /-- the transport's I/O timeout (OPEN, D22; no rule depends on it) -/
  tIo : Nat
  deriving DecidableEq, Repr

/-- `QUIRK_FAMILY` of this implementation: OPEN, no default (D21). -/
opaque Config.quirkFamily : Byte

/-- `QUIRK_SLEEP_CMD` of this implementation: OPEN, no default (D21). -/
opaque Config.quirkSleepCmd : Byte

/-- `T_SETTLE` of this implementation: OPEN (D22). -/
opaque Config.tSettle : Nat

/-- `T_IO` of this implementation: OPEN (D22). -/
opaque Config.tIo : Nat

/-- `checksum8` where the implementation's function is not the reference one: any function (D20). -/
opaque Config.checksum8 : List Byte → Byte

/-- How many slots of a transport call that failed reached the devices, by the number of the call: a free
value (U20: "zero or more slots may have been issued"). -/
opaque Config.freeSlots : Nat → Nat

/-- The parameters with R8's defaults, and the open values where R8 gives none. PRESUMED (the spec's own
general-knowledge defaults G1, G2; log entry 3). -/
def Config.defaultParams : Params where
  cmdSearchRom := 0xF0
  cmdAlarmSearch := 0xEC
  cmdReadRom := 0x33
  cmdMatchRom := 0x55
  cmdSkipRom := 0xCC
  cmdResume := 0xA5
  quirkFamily := Config.quirkFamily
  quirkSleepCmd := Config.quirkSleepCmd
  checksum := .reference
  scanCap := none
  txMax := none
  rxMax := none
  tSettle := Config.tSettle
  tIo := Config.tIo

end Sys2Proof
end

