-- ==== Sys2Proof/Machine/State.lean ====
section
/-! DEFINITION. The state of the engine, of the session layer, and of the environment behind its ports
(spec/10_state.md R20 to R38), as plain data; the reasons a step can stop; the state after reset (R37). -/

namespace Sys2Proof.Machine

/-- `STATUS.ERR` (R108). Codes 6 to 15 are reserved and never produced, so they have no name here. -/
inductive Err where
  | ok
  | noPresence
  | busIoFailure
  | checksumMismatch
  | notAcquired
  | misuse
  deriving DecidableEq, Repr

/-- `SESS`, the session state machine (R29). -/
inductive Session where
  | idle
  | acquired
  | scanning
  | released
  deriving DecidableEq, Repr

/-- The two soft failures (R223). -/
inductive Warning where
  | quirk
  | callback
  deriving DecidableEq, Repr

/-- A DeviceIdentifier: family byte, six serial bytes in the order they travel, checksum byte (R24, R100). -/
structure Identifier where
  family : Byte
  serial1 : Byte
  serial2 : Byte
  serial3 : Byte
  serial4 : Byte
  serial5 : Byte
  serial6 : Byte
  checksum : Byte
  deriving DecidableEq, Repr

/-- `STATUS` (R28, R35) without `QUIRK` and `SESS`, which are registers of their own. -/
structure Status where
  busy : Bool
  done : Bool
  foundPending : Bool
  reportPending : Bool
  err : Err
  wQuirk : Bool
  wCallback : Bool
  deriving DecidableEq, Repr

/-- A byte buffer: (index, byte) pairs with indexes strictly rising. A byte nothing has written has no value,
and reading it is a fault (R37, U11). -/
abbrev Buffer := List Host.Cell

/-- What becomes of an identifier a pass has found: emitted to the host (SEARCH_ALL, R136) or collected into
the scan record (SCAN, R197). -/
inductive SearchMode where
  | emit
  | collect
  deriving DecidableEq, Repr

/-- One update of the engine's own registers, as the pseudocode writes it (R6, R10). -/
inductive Update where
  /-- `LD <- v` -/
  | cursor (v : Discrepancy)
  /-- `ACC <- 0` -/
  | clearAcc
  /-- `ACC[pos-1] <- d` -/
  | chosenBit (pos : Nat) (d : Bool)
  /-- `COUNT <- 0` -/
  | clearCount
  /-- `ID <- id_of(ACC)` -/
  | identify
  /-- `ID <- i` -/
  | identifier (i : Identifier)
  /-- `RXBUF[k] <- bs[k]` -/
  | response (bs : List Byte)
  /-- `QUIRK <- 0` -/
  | clearQuirk
  /-- `if ID[0] = QUIRK_FAMILY then QUIRK <- 1` -/
  | flagQuirk
  /-- `SESS <- Acquired` -/
  | acquire
  deriving DecidableEq, Repr

/-- One entry of the sequencer (R27): a step of an operation's pseudocode that is still to be made, one call,
one event or one register update of R6, or a choice between such steps. The list of them in `State.seq` is what
takes the place of a program counter. The temporaries of a pass (`pos`, `next`, `b`, `d` of R20) are held by the
entry that needs them and are dead outside it; `c` is used in the step that reads it. The entry `unlock` closes
a bracket; `quirkCatch`, `scanCatch`, `released` and `finish` are where a `raise` stops unwinding (R226, R228).
DESIGN CHOICE: what counts as one step (log entry 17). -/
inductive UOp where
  /-- `T.lock()` -/
  | lock
  /-- `T.unlock()` -/
  | unlock
  /-- the reset step of the addressing operations: no presence is an error (R167) -/
  | resetAddressed
  /-- ACQUIRE's reset: the presence answer is not looked at (R191) -/
  | resetIgnored
  /-- `T.write_byte(v)` -/
  | writeByte (v : Byte)
  /-- MATCH_ID's block write of `ID` (R161) -/
  | writeId
  /-- READ_ID's block read (R160) -/
  | readId
  /-- READ_ID's call on the checksum port with the block read, and its gate (R160) -/
  | checksum (bs : List Byte)
  /-- an update of the engine's registers -/
  | set (u : Update)
  /-- the choice of RESET_SELECT (R164) -/
  | select
  /-- WRITE_READ's block write of `TXBUF[0..TXLEN-1]` (R165) -/
  | writeTx
  /-- WRITE_READ's block read into `RXBUF[0..RXLEN-1]` (R165) -/
  | readRx
  /-- `T.resume_power()` (R191) -/
  | resumePower
  /-- the wait of `T_SETTLE` (R191) -/
  | settle
  /-- RELEASE's beginning: `SESS <- Released` (R193) -/
  | beginRelease
  /-- RELEASE's test of `QUIRK`, and the quirk step (R193, R194) -/
  | quirkStep
  /-- the end of the quirk step: a failure in it arrives here as a warning (R194) -/
  | quirkCatch (failed : Bool)
  /-- `T.suspend_power()` (R193) -/
  | suspendPower
  /-- RELEASE's end: `QUIRK <- 0`, then `SESS <- Idle`, to complete with `e` (R193) -/
  | released (e : Err)
  | idle (e : Err)
  /-- a pass at its bus reset; `after` says what follows the pass (R131) -/
  | passReset (scmd : Byte) (after : Option SearchMode)
  /-- a pass at its search command byte -/
  | passCommand (scmd : Byte)
  /-- a pass at position `pos`, about to read the true bit -/
  | passTrue (pos : Nat) (next : Discrepancy)
  /-- a pass at position `pos`, about to read the complement bit -/
  | passComplement (pos : Nat) (next : Discrepancy) (b : Bool)
  /-- a pass at position `pos`, about to write the direction `d` -/
  | passWrite (pos : Nat) (next : Discrepancy) (d : Bool)
  /-- the loop of SEARCH_ALL after a pass: nothing found, or count and deliver (R136, R197) -/
  | afterPass (scmd : Byte) (mode : SearchMode)
  /-- `COUNT <- COUNT + 1` (R136) -/
  | countUp
  /-- `emit found(ID)` (R136) -/
  | emitFound
  /-- `SCANREC <- SCANREC ++ [ID]` (R197) -/
  | append
  /-- waiting for the host to take a found event (R137) -/
  | awaitFound
  /-- the loop of SEARCH_ALL after the delivery: exhausted, or the next pass (R136) -/
  | loopTest (scmd : Byte) (mode : SearchMode)
  /-- SCAN's beginning: `SESS <- Scanning`, `QUIRK <- 0`, `SCANREC <- []` (R196) -/
  | beginScan (scmd : Byte)
  | scanQuirk (scmd : Byte)
  | scanRecord (scmd : Byte)
  /-- the end of SCAN's search phase, with the error that ended it (R196) -/
  | scanCatch (e : Err)
  /-- SCAN's report loop: the entries of `SCANREC` still to be reported (R196, R198) -/
  | report (e : Err) (todo : List Identifier)
  /-- `emit report(ID)` (R196) -/
  | emitReport (e : Err) (todo : List Identifier)
  /-- waiting for the host to answer a report event (R198) -/
  | awaitReport (e : Err) (todo : List Identifier)
  /-- `warn W_CALLBACK` (R198) -/
  | reportFailed (e : Err) (todo : List Identifier)
  /-- SCAN's end: `SESS <- Acquired`, to complete with `e` (R196) -/
  | scanEnd (e : Err)
  /-- the operation completes with `e` (R109 step 4) -/
  | finish (e : Err)
  deriving DecidableEq, Repr

/-- The calls of the transport that have an answer (R11, R61). `lock` and `unlock` have none. -/
inductive Call where
  | reset
  | readBit
  | writeBit (b : Bool)
  | readByte
  | writeByte (v : Byte)
  | readBlock (n : Nat)
  | writeBlock (bs : List Byte)
  | resumePower
  | suspendPower
  deriving DecidableEq, Repr

/-- What a transport call returned (R11). -/
inductive Reply where
  | fail
  | ok
  | presence (p : Bool)
  | bit (b : Bool)
  | bytes (bs : List Byte)
  deriving DecidableEq, Repr

/-- One entry of the operation's output (R6, R13, R16, D16): the port calls with their arguments and answers,
those of the transport and those of the checksum port, the events, the warnings, and the values host reads
returned. -/
inductive Event where
  | lock
  | unlock
  | call (c : Call) (r : Reply)
  /-- `checksum8(bs) = c` -/
  | checksum (bs : List Byte) (c : Byte)
  | settle (delay : Nat)
  | found (id : Identifier)
  | report (id : Identifier)
  | warn (w : Warning)
  | hostRead (offset : Nat) (value : Word)
  deriving DecidableEq, Repr

/-- How the next transport call will be answered: by `fail`; by these bytes, whatever the devices do (R83:
any answer at all); or by the devices on the wire (R74 to R81). DESIGN CHOICE (log entry 18): a `.wire` answer
does not look at the transport's power. -/
inductive Answer where
  | fail
  | value (bs : List Byte)
  | wire
  deriving DecidableEq, Repr

/-- The mode of a device of the reference environment (R75). -/
inductive Listening where
  | off
  | awaitCmd (bits : List Bool)
  | search (p : Nat) (phase : Nat)
  | matching (p : Nat) (ok : Bool)
  | readRom (p : Nat)
  /-- selected: the bits written since (R81), and the read slots since the last write slot. DESIGN CHOICE (log
  entry 22): the response starts anew after each write slot -/
  | selected (written : List Bool) (sent : Nat)
  deriving DecidableEq, Repr

/-- What changes in a device: its mode, and `rc`, the most-recently-matched mark (R38, R75). -/
structure DeviceState where
  mode : Listening
  rc : Bool
  deriving DecidableEq, Repr

/-- A device of the reference environment (R75, R81). `responses` lists, for the bytes written since
selection, the bytes the device will drive. DESIGN CHOICE (log entry 22): the first line for those bytes counts, and
for bytes without a line nothing is driven. -/
structure Device where
  rom : Acc
  alarm : Bool
  responses : List (List Byte × List Byte)
  st : DeviceState
  deriving DecidableEq, Repr

/-- The power states of the transport (R235). After a failed power call they are unknown (R227). -/
inductive Power where
  | active
  | suspended
  | unknown
  deriving DecidableEq, Repr

/-- The transport and the devices behind it: the environment of R7, hidden from the engine but for the
answers of its calls (R34, R38). -/
structure Transport where
  /-- how the calls to come will be answered; a call with no answer left has not returned yet (R62) -/
  answers : List Answer
  devices : List Device
  power : Power
  /-- another caller of the transport holds the bus lock (R233) -/
  lockedElsewhere : Bool
  /-- how many calls have been made; the index of the free values of failed calls -/
  calls : Nat
  deriving DecidableEq, Repr

/-- One thing the host does at the register port (R35), or a hardware reset (R260). -/
inductive HostInput where
  | write (offset : Nat) (value : Word)
  | writeByte (offset : Nat) (value : Byte)
  | read (offset : Nat)
  | readByte (offset : Nat)
  | hardReset
  deriving DecidableEq, Repr

/-- The whole state (R20), with the environment the engine talks to. -/
structure State where
  /-- the cursor's `last_discrepancy` (R21) -/
  ld : Discrepancy
  /-- the cursor's accumulator (R22) -/
  acc : Acc
  /-- the identifier register (R24) -/
  id : Identifier
  /-- identifiers delivered by the current or last search (R25) -/
  count : BitVec 32
  /-- "the session's known peripheral count" (R26) -/
  pcount : BitVec 32
  /-- `TXLEN`, `TXBUF` (R32): a length and bytes, unbounded (R8, D24) -/
  txlen : Nat
  txbuf : Buffer
  /-- `RXLEN`, `RXBUF` (R32) -/
  rxlen : Nat
  rxbuf : Buffer
  status : Status
  sess : Session
  /-- the SessionQuirkFlag (R30) -/
  quirk : Bool
  /-- the ScanRecord, in order of discovery (R31) -/
  scanrec : List Identifier
  /-- the sequencer: the steps of the operation in flight still to be made (R27) -/
  seq : List UOp
  /-- the engine's contribution to the depth of the bus lock (R33) -/
  lockDepth : Nat
  /-- the implementation parameters (R8) -/
  params : Params
  /-- the host's accesses still to come, first first (R7) -/
  host : List HostInput
  bus : Transport
  /-- the output so far, newest first -/
  log : List Event
  deriving DecidableEq, Repr

/-- Why the machine stops with a fault. All are safe: the engine does not go on where the spec gives no
value or no register. -/
inductive Fault where
  /-- Raised by WRITE_READ's block write and by a host read of a buffer: a byte nothing has written since
  reset is used (R37, U11: "`fault` on use"). Safe. -/
  | unwrittenByte
  /-- Raised by a host access to an offset at which R35 has no register. Safe. -/
  | unmappedOffset
  /-- Raised by a host access of the wrong size: a byte access to a word register or the reverse (R35 gives
  the buffers as byte accesses, the rest as 32-bit words). Safe. -/
  | accessSize
  /-- Raised by a host read of `CMD` or `EVACK`, write-only in R35. Safe. -/
  | writeOnly
  /-- Raised by a host write, while idle, of `STATUS`, `COUNT` or `RXBUF`, read-only in R35. Safe. -/
  | readOnly
  deriving DecidableEq, Repr

/-- Why the machine gives no meaning. All are safe. -/
inductive Refusal where
  /-- An operation without a meaning: no arm of `exec` answers so in this model. Safe. -/
  | notModelled (mnemonic : String)
  /-- Raised by the search loop: `COUNT` would be incremented past 2^32 - 1 (R25, U17: refuse). Safe. -/
  | countOverflow
  /-- Raised by SCAN: one more identifier than `SCAN_CAP` would be appended (D18, U16: refuse). Safe. -/
  | scanRecordFull
  /-- Raised by WRITE_READ with more command bytes than `TX_MAX`, whose treatment the spec does not give (D24).
  DESIGN CHOICE (log entry 11). Safe. -/
  | commandTooLong
  /-- Raised by WRITE_READ with a response longer than `RX_MAX`, likewise (D24). DESIGN CHOICE (log entry 11).
  Safe. -/
  | responseTooLong
  /-- Raised by a hardware reset while an operation is in flight (R260, U15: refuse). Safe. -/
  | resetWhileBusy
  deriving DecidableEq, Repr

/-- `STATUS` after reset: all 0 (R37). -/
def Status.reset : Status where
  busy := false
  done := false
  foundPending := false
  reportPending := false
  err := .ok
  wQuirk := false
  wCallback := false

/-- The identifier of eight zero bytes (R37). -/
def Identifier.zero : Identifier := ⟨0, 0, 0, 0, 0, 0, 0, 0⟩

/-- The environment at reset: nothing attached, nothing answered yet. DESIGN CHOICE (log entry 4). -/
def Transport.reset : Transport where
  answers := []
  devices := []
  power := .unknown
  lockedElsewhere := false
  calls := 0

/-- The machine right after reset (R37, R260). The buffers hold no byte; the environment part is
`Transport.reset`. -/
def State.reset : State where
  ld := 0
  acc := 0
  id := .zero
  count := 0
  pcount := 0
  txlen := 0
  txbuf := []
  rxlen := 0
  rxbuf := []
  status := .reset
  sess := .idle
  quirk := false
  scanrec := []
  seq := []
  lockDepth := 0
  params := Config.defaultParams
  host := []
  bus := .reset
  log := []

end Sys2Proof.Machine
end

