-- ==== Sys2Proof/Machine/Operands.lean ====
section
/-! DEFINITION. The operand forms and the arithmetic of the operations (spec/40_rom_search.md R142): the
identifier against the accumulator, the cursor's value, the tie-break, the checksum, the search command byte,
the choice of RESET_SELECT. -/

namespace Sys2Proof.Machine

/-- The eight bytes of an identifier in record order, the order they travel (R100). -/
def Identifier.toList (i : Identifier) : List Byte :=
  [i.family, i.serial1, i.serial2, i.serial3, i.serial4, i.serial5, i.serial6, i.checksum]

/-- The identifier of a block of eight bytes, `ID[j] <- bs[j]` (R160). -/
def Identifier.ofList (bs : List Byte) : Identifier where
  family := bs.getD 0 0
  serial1 := bs.getD 1 0
  serial2 := bs.getD 2 0
  serial3 := bs.getD 3 0
  serial4 := bs.getD 4 0
  serial5 := bs.getD 5 0
  serial6 := bs.getD 6 0
  checksum := bs.getD 7 0

/-- Finalize-identifier: `ID[j] = ACC[8j+7 : 8j]` (R101). -/
def idOf (a : Acc) : Identifier where
  family := a.extractLsb' 0 8
  serial1 := a.extractLsb' 8 8
  serial2 := a.extractLsb' 16 8
  serial3 := a.extractLsb' 24 8
  serial4 := a.extractLsb' 32 8
  serial5 := a.extractLsb' 40 8
  serial6 := a.extractLsb' 48 8
  checksum := a.extractLsb' 56 8

/-- The inverse of `idOf`: the checksum byte most significant (R101). -/
def accOf (i : Identifier) : Acc :=
  i.checksum ++ i.serial6 ++ i.serial5 ++ i.serial4 ++ i.serial3 ++ i.serial2 ++ i.serial1 ++ i.family

/-- The reference big-endian number of an identifier: the family byte most significant (R101). -/
def beOf (i : Identifier) : Acc :=
  i.family ++ i.serial1 ++ i.serial2 ++ i.serial3 ++ i.serial4 ++ i.serial5 ++ i.serial6 ++ i.checksum

/-- `LD_INIT`, `LD_LAST`, `LD_NONE` (R21). -/
def ldInit : Discrepancy := 0
def ldLast : Discrepancy := 65
def ldNone : Discrepancy := 66

/-- The number of bit positions of an identifier, `N_POS` (R8). -/
def lastPosition : Nat := 64

/-- The cursor's value as the abstract type of R21; the PassResult of R130. -/
inductive CursorValue where
  | init
  | at (p : Nat)
  | lastDevice
  | noDevice
  | reserved (v : Nat)
  deriving DecidableEq, Repr

/-- What a 7-bit `LD` stands for (R21). -/
def cursorValue (ld : Discrepancy) : CursorValue :=
  if ld = ldInit then .init
  else if ld.toNat ≤ lastPosition then .at ld.toNat
  else if ld = ldLast then .lastDevice
  else if ld = ldNone then .noDevice
  else .reserved ld.toNat

/-- A cursor SEARCH_PASS may start from: `Init` or `At(p)` (R130). -/
def startsPass (ld : Discrepancy) : Bool := ld.toNat ≤ lastPosition

/-- The bit a previous pass left at a position, `ACC[pos-1]` (R64). -/
def accBit (a : Acc) (pos : Nat) : Bool := a.getLsbD (pos - 1)

/-- `ACC[pos-1] <- d`, every other bit unchanged (R10, R131). -/
def setAccBit (a : Acc) (pos : Nat) (d : Bool) : Acc :=
  if d then a ||| (1#64 <<< (pos - 1)) else a &&& ~~~(1#64 <<< (pos - 1))

/-- The tie-break at a `(0, 0)` pair: take the 1 branch (R131, the table of R132). -/
def takesOne (ld : Discrepancy) (a : Acc) (pos : Nat) : Bool :=
  ld.toNat < pos || (pos < ld.toNat && accBit a pos)

/-- `SCMD`: the search command byte that `A` selects (R102, R139). -/
def searchCommand (p : Params) (alarm : Bool) : Byte :=
  if alarm then p.cmdAlarmSearch else p.cmdSearchRom

/-- RESET_SELECT's choice: MATCH_ID iff `PCOUNT > 1`, unsigned (R164). -/
def selectsByMatch (pcount : BitVec 32) : Bool := 1 < pcount.toNat

/-- One right shift of the reference checksum (R82). -/
def crcShift (c : Byte) : Byte := if c.getLsbD 0 then (c >>> 1) ^^^ 0x8C else c >>> 1

/-- One byte of the reference checksum: exclusive or, then eight shifts (R82). -/
def crcByte (c b : Byte) : Byte :=
  crcShift (crcShift (crcShift (crcShift (crcShift (crcShift (crcShift (crcShift (c ^^^ b))))))))

/-- The reference checksum of R82. PRESUMED (the spec's G2; log entry 3). -/
def crc8 (bs : List Byte) : Byte := bs.foldl crcByte 0

/-- The checksum port (R82). -/
def checksum8 (p : Params) (bs : List Byte) : Byte :=
  match p.checksum with
  | .reference => crc8 bs
  | .external => Config.checksum8 bs

/-- A block is a valid identifier iff its checksum is zero (R82, R160). -/
def checksumValid (p : Params) (bs : List Byte) : Bool := checksum8 p bs == 0

/-- The identifier belongs to the quirk family: `id[0] = QUIRK_FAMILY` (R197). -/
def isQuirk (p : Params) (i : Identifier) : Bool := i.family == p.quirkFamily

end Sys2Proof.Machine
end

