-- ==== Sys2Proof/Machine/Flags.lean ====
section
/-! DEFINITION. The status register: its codes, its 32-bit packing, and what each phase of an operation does to
it (spec/10_state.md R28, R35; spec/30_encoding.md R108, R109; spec/60_exceptions.md R223). -/

namespace Sys2Proof.Machine

/-- The number of an error code (R108). -/
def Err.code : Err → BitVec 4
  | .ok => 0
  | .noPresence => 1
  | .busIoFailure => 2
  | .checksumMismatch => 3
  | .notAcquired => 4
  | .misuse => 5

/-- The number of a session state (R29). -/
def Session.code : Session → BitVec 2
  | .idle => 0
  | .acquired => 1
  | .scanning => 2
  | .released => 3

/-- The 32-bit `STATUS` word (R35): bit 0 `BUSY`, 1 `DONE`, 2 `FOUND_PENDING`, 3 `REPORT_PENDING`, 7:4 `ERR`,
8 `W_QUIRK`, 9 `W_CALLBACK`, 10 `QUIRK`, 13:12 `SESS`, all other bits 0. -/
def statusWord (st : Status) (quirk : Bool) (sess : Session) : Word :=
  0#18 ++ sess.code ++ 0#1 ++ BitVec.ofBool quirk ++ BitVec.ofBool st.wCallback ++ BitVec.ofBool st.wQuirk ++
    st.err.code ++ BitVec.ofBool st.reportPending ++ BitVec.ofBool st.foundPending ++ BitVec.ofBool st.done ++
    BitVec.ofBool st.busy

/-- Step 1 of R109: clear `DONE`, `ERR` and the warnings, set `BUSY`. -/
def Status.issued (st : Status) : Status :=
  { st with busy := true, done := false, err := .ok, wQuirk := false, wCallback := false }

/-- Step 4 of R109: write `ERR`, clear `BUSY`, set `DONE`; the warnings stay (R228). -/
def Status.completed (st : Status) (e : Err) : Status :=
  { st with busy := false, done := true, err := e }

/-- `warn W`: set the soft-warning flag and nothing else (R13, R223). -/
def Status.warned (st : Status) : Warning → Status
  | .quirk => { st with wQuirk := true }
  | .callback => { st with wCallback := true }

/-- A host write of `EVACK` that takes the pending event: bit 0 `TAKE` (R35). Any other host input does not.
DESIGN CHOICE (log entry 7): with `TAKE` 0 the write does nothing, also with `CBFAIL` 1 while a report is pending:
the event stays pending and the `CBFAIL` is not remembered. DESIGN CHOICE (log entry 19): bits 31:2 are ignored. -/
def takesEvent : HostInput → Bool
  | .write off v => off == 0x2C && v.getLsbD 0
  | _ => false

/-- Bit 1 of the same write, `CBFAIL`: the report callback failed (R35). -/
def callbackFailed : HostInput → Bool
  | .write _ v => v.getLsbD 1
  | _ => false

end Sys2Proof.Machine
end

