-- ==== Sys2Proof/Machine/Wire.lean ====
section
/-! DEFINITION. The transport and the devices behind it: slots, the reference environment of
spec/20_memory.md R73 to R81, and the answer of one transport call (R61 to R66, R83). -/

namespace Sys2Proof.Machine

/-- One slot on the line (R61). -/
inductive Slot where
  | read
  | write (b : Bool)
  deriving DecidableEq, Repr

/-- The slots of a call, first first; a byte goes bit 0 first and a block is its bytes in increasing index
(R61, R66). A bus reset and the power calls are no slots. -/
def Call.slots : Call → List Slot
  | .readBit => [.read]
  | .writeBit b => [.write b]
  | .readByte => List.replicate 8 .read
  | .writeByte v => v.slots.map .write
  | .readBlock n => List.replicate (8 * n) .read
  | .writeBlock bs => (bs.flatMap Byte.slots).map .write
  | .reset | .resumePower | .suspendPower => []

/-- How many slots of a list read the line. -/
def readSlots : List Slot → Nat
  | [] => 0
  | .read :: l => readSlots l + 1
  | .write _ :: l => readSlots l

/-- Split bits into bytes, bit 0 first (R66); `n` bytes are taken. -/
def bytesOfBits : Nat → List Bool → List Byte
  | 0, _ => []
  | n + 1, bs => Byte.ofSlots (bs.take 8) :: bytesOfBits n (bs.drop 8)

/-- The bit a selected device drives: that of the bytes its table gives for the bytes written since selection (R81).
A device that has nothing to drive leaves the line at 1 (R73). DESIGN CHOICE (log entry 22): bits written that do not
fill a byte are left out of the lookup, and `sent` counts the read slots since the last write slot. -/
def Device.drives (d : Device) (written : List Bool) (sent : Nat) : Bool :=
  match d.responses.lookup (bytesOfBits (written.length / 8) written) with
  | some bs => (bs.flatMap Byte.slots).getD sent true
  | none => true

/-- The mode a device takes on the eighth slot of a command byte (R77). Alarm search: PRESUMED (the spec's
G4; log entry 3). DESIGN CHOICE (log entry 21): where two of the six command bytes are equal, the first of these lines
that fits is taken. -/
def Device.commanded (p : Params) (d : Device) (rc : Bool) (cmd : Byte) : Listening :=
  if cmd = p.cmdSearchRom then .search 1 0
  else if cmd = p.cmdAlarmSearch then (if d.alarm then .search 1 0 else .off)
  else if cmd = p.cmdReadRom then .readRom 1
  else if cmd = p.cmdMatchRom then .matching 1 true
  else if cmd = p.cmdSkipRom then .selected [] 0
  else if cmd = p.cmdResume then (if rc then .selected [] 0 else .off)
  else .off

/-- A device in a read slot: the bit it drives (1 if none) and its state after (R77 to R79, R81). DESIGN CHOICE (log
entry 14): a read slot in mode `Match`, or a third one in a position of a search, leaves it as it is. -/
def Device.readSlot (d : Device) (st : DeviceState) : Bool × DeviceState :=
  match st.mode with
  | .search p 0 => (accBit d.rom p, { st with mode := .search p 1 })
  | .search p 1 => (!accBit d.rom p, { st with mode := .search p 2 })
  | .readRom p =>
    (accBit d.rom p, { st with mode := if p < lastPosition then .readRom (p + 1) else .selected [] 0 })
  | .selected w n => (d.drives w n, { st with mode := .selected w (n + 1) })
  | .search _ _ | .off | .awaitCmd _ | .matching _ _ => (true, st)

/-- A device in a write slot carrying `b` (R77 to R79, R81). DESIGN CHOICE (log entry 14): a write slot in mode
`ReadRom`, or an early one in a position of a search, leaves it as it is. DESIGN CHOICE (log entry 22): a write slot
to a selected device starts its response anew. -/
def Device.writeSlot (p : Params) (d : Device) (st : DeviceState) (b : Bool) : DeviceState :=
  match st.mode with
  | .awaitCmd bits =>
    let bits := bits ++ [b]
    if bits.length < 8 then { st with mode := .awaitCmd bits }
    else { st with mode := d.commanded p st.rc (Byte.ofSlots bits) }
  | .search pos 2 =>
    if b ≠ accBit d.rom pos then { mode := .off, rc := false }
    else if pos < lastPosition then { st with mode := .search (pos + 1) 0 }
    else { mode := .selected [] 0, rc := true }
  | .matching pos ok =>
    let ok := ok && b == accBit d.rom pos
    if pos < lastPosition then { st with mode := .matching (pos + 1) ok }
    else if ok then { mode := .selected [] 0, rc := true }
    else { mode := .off, rc := false }
  | .selected w _ => { st with mode := .selected (w ++ [b]) 0 }
  | .search _ _ | .off | .readRom _ => st

/-- A device through a list of slots: the bits it drove in the read slots, and its state after. -/
def Device.through (p : Params) (d : Device) : List Slot → DeviceState → List Bool × DeviceState
  | [], st => ([], st)
  | .read :: l, st =>
    let (b, st) := d.readSlot st
    let (bs, st) := Device.through p d l st
    (b :: bs, st)
  | .write b :: l, st => Device.through p d l (d.writeSlot p st b)

/-- Every device goes through the slots. -/
def Device.after (p : Params) (l : List Slot) (d : Device) : Device :=
  { d with st := (Device.through p d l d.st).2 }

/-- A bus reset: every device awaits a command; no mark changes (R76). -/
def Device.busReset (d : Device) : Device := { d with st := { d.st with mode := .awaitCmd [] } }

/-- The wired-AND of the devices over the read slots; a slot nobody drives reads 1 (R73). -/
def wiredAnd (p : Params) (l : List Slot) (ds : List Device) : List Bool :=
  ds.foldl (fun line d => List.zipWith (· && ·) line (Device.through p d l d.st).1)
    (List.replicate (readSlots l) true)

/-- What the devices answer to a call (R61, R76). DESIGN CHOICE (log entry 18): they answer whatever the
transport's power; that calls on an unpowered bus fail (R200, R230) is for the answers given to say. -/
def wireReply (p : Params) (c : Call) (ds : List Device) : Reply :=
  match c with
  | .reset => .presence (!ds.isEmpty)
  | .readBit => .bit ((wiredAnd p c.slots ds).getD 0 true)
  | .readByte => .bytes (bytesOfBits 1 (wiredAnd p c.slots ds))
  | .readBlock n => .bytes (bytesOfBits n (wiredAnd p c.slots ds))
  | .writeBit _ | .writeByte _ | .writeBlock _ | .resumePower | .suspendPower => .ok

/-- The reply of the form the call has, made of given bytes (R83: any value in any slot). A presence or a bit
is bit 0 of the first byte; a missing byte reads FFh, as an undriven line does (R73). -/
def valueReply (c : Call) (bs : List Byte) : Reply :=
  match c with
  | .reset => .presence ((bs.getD 0 0xFF).getLsbD 0)
  | .readBit => .bit ((bs.getD 0 0xFF).getLsbD 0)
  | .readByte => .bytes [bs.getD 0 0xFF]
  | .readBlock n => .bytes ((bs ++ List.replicate n 0xFF).take n)
  | .writeBit _ | .writeByte _ | .writeBlock _ | .resumePower | .suspendPower => .ok

/-- The reply that an answer gives to a call (R11). -/
def Answer.reply (p : Params) (c : Call) (ds : List Device) : Answer → Reply
  | .fail => .fail
  | .value bs => valueReply c bs
  | .wire => wireReply p c ds

/-- The devices after a call that returned: they saw all of it (R68). DESIGN CHOICE (log entry 18): a suspend or
a resume of the power changes no mode and no mark. -/
def devicesAfter (p : Params) (c : Call) (ds : List Device) : List Device :=
  match c with
  | .reset => ds.map Device.busReset
  | _ => ds.map (Device.after p c.slots)

/-- The devices after a call that failed: zero or more slots of it were issued (R225, U20). How many is the
free value `Config.freeSlots`. -/
def devicesAfterFailure (p : Params) (c : Call) (n : Nat) (ds : List Device) : List Device :=
  match c with
  | .reset => ds.map fun d => { d with st := if Config.freeSlots n = 0 then d.st else d.busReset.st }
  | _ => ds.map (Device.after p (c.slots.take (Config.freeSlots n)))

/-- The transport's power state after a power call (R235); unknown after one that failed (R227). -/
def powerAfter (c : Call) (r : Reply) (was : Power) : Power :=
  match c with
  | .resumePower => if r = .fail then .unknown else .active
  | .suspendPower => if r = .fail then .unknown else .suspended
  | _ => was

/-- One transport call: none while it has not returned, else its reply and the transport after it. DESIGN CHOICE
(log entry 18): the power is set by the power calls and is not looked at. -/
def Transport.call (p : Params) (c : Call) (b : Transport) : Option (Reply × Transport) :=
  match b.answers with
  | [] => none
  | a :: rest =>
    let r := a.reply p c b.devices
    some (r, { b with
      answers := rest
      devices := if r = .fail then devicesAfterFailure p c b.calls b.devices else devicesAfter p c b.devices
      power := powerAfter c r b.power
      calls := b.calls + 1 })

end Sys2Proof.Machine
end

