-- ==== Sys2Proof/Machine/Ops.lean ====
section
/-! DEFINITION. The named operations over the state: byte buffers, the transport port, the bus lock, the raise
of a hard error and its cleanup (what takes the place of taking an exception, spec/60_exceptions.md R225 to
R228), issue and completion (R109). -/

namespace Sys2Proof.Machine

/-! ### Byte buffers -/

/-- The byte at an index, if one has been written (R37). -/
def Buffer.read? : Buffer → Nat → Option Byte
  | [], _ => none
  | (i, v) :: rest, k => if i = k then some v else if k < i then none else Buffer.read? rest k

/-- Write one byte, keeping the indexes rising. -/
def Buffer.write : Buffer → Nat → Byte → Buffer
  | [], k, b => [(k, b)]
  | (i, v) :: rest, k, b =>
    if k < i then (k, b) :: (i, v) :: rest
    else if k = i then (k, b) :: rest
    else (i, v) :: Buffer.write rest k b

/-- The bytes `k .. k+n-1`, if all have been written. -/
def Buffer.block? (buf : Buffer) : Nat → Nat → Option (List Byte)
  | _, 0 => some []
  | k, n + 1 =>
    match buf.read? k with
    | none => none
    | some b => (buf.block? (k + 1) n).map (b :: ·)

/-- Write bytes from index `k` up (R165: `RXBUF[k] <- bs[k]`). -/
def Buffer.writeBlock (buf : Buffer) : Nat → List Byte → Buffer
  | _, [] => buf
  | k, b :: bs => Buffer.writeBlock (buf.write k b) (k + 1) bs

/-- Every index in the buffer is above a bound. -/
def Buffer.above (n : Nat) (buf : Buffer) : Bool := buf.all fun c => n < c.1

/-- The canonical form: indexes strictly rising. An unlisted byte has no value, so no listed one equals it. -/
def Buffer.wf : Buffer → Bool
  | [] => true
  | (i, _) :: rest => Buffer.above i rest && Buffer.wf rest

/-! ### The sequencer and the output -/

/-- What one step of the sequencer does: a new state; no step, because a lock, an answer or the host is still
awaited; or a stop. -/
inductive Progress where
  | moved (s : State)
  | waiting
  | fault (f : Fault)
  | refused (r : Refusal)
  deriving DecidableEq, Repr

/-- What is still to be done becomes `k`. -/
def State.goto (s : State) (k : List UOp) : State := { s with seq := k }

/-- Append one entry to the output. -/
def State.record (s : State) (e : Event) : State := { s with log := e :: s.log }

/-- The output in order (R16: the trace, with the events and warnings). -/
def State.trace (s : State) : List Event := s.log.reverse

/-- `warn W` (R13): set the flag, put the warning in the output, and go on (R223). -/
def State.warn (s : State) (w : Warning) : State :=
  { s with status := s.status.warned w }.record (.warn w)

/-! ### Register updates -/

/-- One update of the engine's own registers (R6); every other register stays (R10). -/
def State.apply (s : State) : Update → State
  | .cursor v => { s with ld := v }
  | .clearAcc => { s with acc := 0 }
  | .chosenBit pos d => { s with acc := setAccBit s.acc pos d }
  | .clearCount => { s with count := 0 }
  | .identify => { s with id := idOf s.acc }
  | .identifier i => { s with id := i }
  | .response bs => { s with rxbuf := s.rxbuf.writeBlock 0 bs }
  | .clearQuirk => { s with quirk := false }
  | .flagQuirk => { s with quirk := s.quirk || isQuirk s.params s.id }
  | .acquire => { s with sess := .acquired }

/-- `SCANREC <- SCANREC ++ [ID]` (R197). -/
def State.append (s : State) : State := { s with scanrec := s.scanrec ++ [s.id] }

/-- A length is beyond a capacity (R8); no length is beyond an unbounded one. -/
def exceeds (cap : Option Nat) (n : Nat) : Bool :=
  match cap with
  | some c => c < n
  | none => false

/-! ### Events -/

/-- `emit found(ID)` (R13): the event is pending until the host takes it. -/
def State.emitFound (s : State) : State :=
  { s with status := { s.status with foundPending := true } }.record (.found s.id)

/-- `emit report(ID)` (R13). -/
def State.emitReport (s : State) : State :=
  { s with status := { s.status with reportPending := true } }.record (.report s.id)

/-- The host has taken the found event, or answered the report event; the rest of its accesses is `rest`. -/
def State.foundTaken (s : State) (rest : List HostInput) : State :=
  { s with host := rest, status := { s.status with foundPending := false } }
def State.reportTaken (s : State) (rest : List HostInput) : State :=
  { s with host := rest, status := { s.status with reportPending := false } }

/-! ### The ports -/

/-- Make a transport call: none while it has not returned; else the reply and the state after, the call in the
output (R69: one call at a time, each after the one before has returned). -/
def State.ask (s : State) (c : Call) : Option (Reply × State) :=
  match s.bus.call s.params c with
  | none => none
  | some (r, b) => some (r, { s with bus := b }.record (.call c r))

/-- The value of a presence or bit reply. -/
def Reply.flag : Reply → Bool
  | .presence p => p
  | .bit b => b
  | _ => false

/-- The bytes of a block reply. -/
def Reply.data : Reply → List Byte
  | .bytes bs => bs
  | _ => []

/-- `c <- checksum8(bs)`, a call on the checksum port (R6, R7), which returns at once. -/
def State.checked (s : State) (bs : List Byte) : State := s.record (.checksum bs (checksum8 s.params bs))

/-! ### The bus lock -/

/-- The lock can be had: no other caller has it, or the engine itself holds it (reentrant, R70). DESIGN CHOICE (log
entry 12): there is no lock held by the host itself (R263); it shows here as no other caller having the lock, if
host and engine are one owner, and as another caller having it, if they are two. -/
def State.lockFree (s : State) : Bool := s.lockDepth != 0 || !s.bus.lockedElsewhere

/-- `T.lock()` granted. -/
def State.locked (s : State) : State := { s with lockDepth := s.lockDepth + 1 }.record .lock

/-- `T.unlock()`: it cannot fail (R62). -/
def State.unlocked (s : State) : State := { s with lockDepth := s.lockDepth - 1 }.record .unlock

/-! ### Raising a hard error -/

/-- The cleanup a hard error leaves to be done: of the steps still to come only the closing of brackets,
innermost first, and the place where the error is caught, which gets to know it (R222, R226, R228). -/
def unwind (e : Err) : List UOp → List UOp
  | [] => [.finish e]
  | .unlock :: k => .unlock :: unwind e k
  | .quirkCatch _ :: k => .quirkCatch true :: k
  | .scanCatch _ :: k => .scanCatch e :: k
  | .released _ :: k => .released e :: k
  | .finish _ :: k => .finish e :: k
  | _ :: k => unwind e k

/-- `raise e` with `k` still to come (R12): no further call of the body is made, the cleanup is. This is the
engine's one way of taking a hard error; there is no trap frame and no vector (R227, R228). -/
def State.raise (s : State) (e : Err) (k : List UOp) : State := s.goto (unwind e k)

/-- `x <- T.call(...) else raise BusIoFailure`, with `k` still to come (R12). -/
def State.askOr (s : State) (c : Call) (k : List UOp) (go : Reply → State → Progress) : Progress :=
  match s.ask c with
  | none => .waiting
  | some (.fail, s') => .moved (s'.raise .busIoFailure k)
  | some (r, s') => go r s'

/-! ### Issue and completion -/

/-- Steps 1 and 3 of R109: the operation is in flight, its program still to be run. -/
def State.issue (s : State) (prog : List UOp) : State :=
  { s with status := s.status.issued }.goto prog

/-- Step 4 of R109: the operation is over. -/
def State.complete (s : State) (e : Err) : State :=
  { s with status := s.status.completed e }.goto []

/-- An operation that ends before its first bus call with an error: status only (R227: "nothing changed"). -/
def State.reject (s : State) (e : Err) : State :=
  { s with status := s.status.issued.completed e }.goto []

/-! ### Frames shared by several operations (R102) -/

/-- SKIP's frame: the bracket, the reset, the command byte (R162). DEDUCED (log entry 20): two calls, as R102, R162
and the vectors V49, V50 have it, where R274 counts three. -/
def skipFrame (p : Params) : List UOp := [.lock, .resetAddressed, .writeByte p.cmdSkipRom, .unlock]

/-- MATCH_ID's frame: the bracket, the reset, the command byte, the eight identifier bytes (R161). -/
def matchFrame (p : Params) : List UOp :=
  [.lock, .resetAddressed, .writeByte p.cmdMatchRom, .writeId, .unlock]

/-- RESET_SELECT's body: MATCH_ID or SKIP by `PCOUNT` (R164). -/
def selectFrame (p : Params) (pcount : BitVec 32) : List UOp :=
  if selectsByMatch pcount then matchFrame p else skipFrame p

/-- The quirk step of RELEASE: SKIP as a subroutine, the sleep byte, and where a failure of either is caught
(R194). -/
def quirkFrame (p : Params) : List UOp :=
  skipFrame p ++ [.writeByte p.quirkSleepCmd, .quirkCatch false]

/-- The body of SEARCH_ALL: its bracket, the fresh cursor, the first pass; the passes after it are put before
the closing of the bracket as the loop goes on (R136). -/
def searchBody (scmd : Byte) (mode : SearchMode) : List UOp :=
  [.lock, .set (.cursor ldInit), .set .clearAcc, .set .clearCount, .passReset scmd (some mode), .unlock]

/-- What the search loop does with an identifier found: emit it (R136), or collect it (R197). -/
def deliver (mode : SearchMode) : List UOp :=
  match mode with
  | .emit => [.emitFound]
  | .collect => [.append, .set .flagQuirk]

end Sys2Proof.Machine
end

