-- ==== Sys2Proof/Machine/Sequencer.lean ====
section
/-! DEFINITION. The sequencer (spec/10_state.md R27, spec/40_rom_search.md R143): what each step of an
operation's pseudocode does, one transport call, event or register update a step (spec/00_scope.md R6), and
running an operation as far as it goes. -/

namespace Sys2Proof.Machine

/-! ### The lock -/

/-- `T.lock()`: blocks while another caller has the lock (R62, R70). -/
def stepLock (k : List UOp) (s : State) : Progress :=
  if s.lockFree then .moved (s.locked.goto k) else .waiting

/-- `T.unlock()`. -/
def stepUnlock (k : List UOp) (s : State) : Progress := .moved (s.unlocked.goto k)

/-! ### Addressing -/

/-- The reset step: `fail` raises BusIoFailure, no presence raises NoPresence (R167). -/
def stepResetAddressed (k : List UOp) (s : State) : Progress :=
  s.askOr .reset k fun r s => if r.flag then .moved (s.goto k) else .moved (s.raise .noPresence k)

/-- ACQUIRE's reset: the presence answer is ignored (R191, D31). -/
def stepResetIgnored (k : List UOp) (s : State) : Progress :=
  s.askOr .reset k fun _ s => .moved (s.goto k)

/-- One byte out. -/
def stepWriteByte (v : Byte) (k : List UOp) (s : State) : Progress :=
  s.askOr (.writeByte v) k fun _ s => .moved (s.goto k)

/-- The eight identifier bytes out, in record order (R161). -/
def stepWriteId (k : List UOp) (s : State) : Progress :=
  s.askOr (.writeBlock s.id.toList) k fun _ s => .moved (s.goto k)

/-- `bs <- T.read_block(8)` (R160). -/
def stepReadId (k : List UOp) (s : State) : Progress :=
  s.askOr (.readBlock 8) k fun r s => .moved (s.goto (.checksum r.data :: k))

/-- The call on the checksum port; on a checksum that is not 0 ChecksumMismatch, else `ID <- bs` is next
(R160). -/
def stepChecksum (bs : List Byte) (k : List UOp) (s : State) : Progress :=
  if checksumValid s.params bs then .moved ((s.checked bs).goto (.set (.identifier (.ofList bs)) :: k))
  else .moved ((s.checked bs).raise .checksumMismatch k)

/-- An update of the engine's registers. -/
def stepSet (u : Update) (k : List UOp) (s : State) : Progress := .moved ((s.apply u).goto k)

/-- RESET_SELECT as a subroutine (R164). -/
def stepSelect (k : List UOp) (s : State) : Progress :=
  .moved (s.goto (selectFrame s.params s.pcount ++ k))

/-- `T.write_block(TXBUF[0..TXLEN-1])`; a byte nothing has written is a fault (R165, U11). -/
def stepWriteTx (k : List UOp) (s : State) : Progress :=
  match s.txbuf.block? 0 s.txlen with
  | none => .fault .unwrittenByte
  | some bs => s.askOr (.writeBlock bs) k fun _ s => .moved (s.goto k)

/-- `bs <- T.read_block(RXLEN)`; `RXBUF[k] <- bs[k]` is next (R165). -/
def stepReadRx (k : List UOp) (s : State) : Progress :=
  s.askOr (.readBlock s.rxlen) k fun r s => .moved (s.goto (.set (.response r.data) :: k))

/-! ### The search pass (R131) -/

/-- The steps after a pass: those of the search loop, if the pass is part of one. -/
def afterReset (scmd : Byte) (after : Option SearchMode) (k : List UOp) : List UOp :=
  match after with
  | none => k
  | some mode => .afterPass scmd mode :: k

/-- The reset of a pass: without presence `LD <- LD_NONE` is next and ends the pass (R131). -/
def stepPassReset (scmd : Byte) (after : Option SearchMode) (k : List UOp) (s : State) : Progress :=
  s.askOr .reset k fun r s =>
    if r.flag then .moved (s.goto (.passCommand scmd :: afterReset scmd after k))
    else .moved (s.goto (.set (.cursor ldNone) :: afterReset scmd after k))

/-- The search command byte; `next <- LD_LAST` (R131). -/
def stepPassCommand (scmd : Byte) (k : List UOp) (s : State) : Progress :=
  s.askOr (.writeByte scmd) k fun _ s => .moved (s.goto (.passTrue 1 ldLast :: k))

/-- `b <- T.read_bit()`, the true bit (R131, D6). -/
def stepPassTrue (pos : Nat) (next : Discrepancy) (k : List UOp) (s : State) : Progress :=
  s.askOr .readBit k fun r s => .moved (s.goto (.passComplement pos next r.flag :: k))

/-- `c <- T.read_bit()`, the complement, and the decision on the pair (R131, R133): `(1, 1)` ends the pass;
a pair that differs is adopted; `(0, 0)` is the tie-break, and a 1 taken there is remembered. -/
def stepPassComplement (pos : Nat) (next : Discrepancy) (b : Bool) (k : List UOp) (s : State) : Progress :=
  s.askOr .readBit k fun r s =>
    if b && r.flag then .moved (s.goto (.set (.cursor ldNone) :: k))
    else if b != r.flag then .moved (s.goto (.passWrite pos next b :: k))
    else if takesOne s.ld s.acc pos then .moved (s.goto (.passWrite pos (BitVec.ofNat 7 pos) true :: k))
    else .moved (s.goto (.passWrite pos next false :: k))

/-- What follows the write at a position: the next position, or `LD <- next` after position 64 (R131). -/
def afterWrite (pos : Nat) (next : Discrepancy) : UOp :=
  if pos < lastPosition then .passTrue (pos + 1) next else .set (.cursor next)

/-- `T.write_bit(d)`; `ACC[pos-1] <- d` is next (R131). -/
def stepPassWrite (pos : Nat) (next : Discrepancy) (d : Bool) (k : List UOp) (s : State) : Progress :=
  s.askOr (.writeBit d) k fun _ s => .moved (s.goto (.set (.chosenBit pos d) :: afterWrite pos next :: k))

/-! ### The search loop (R136, R197) -/

/-- After a pass: `NoDevice` ends the loop; else count, finalize, deliver, and test the loop (R136, R197). -/
def stepAfterPass (scmd : Byte) (mode : SearchMode) (k : List UOp) (s : State) : Progress :=
  if s.ld = ldNone then .moved (s.goto k)
  else .moved (s.goto (.countUp :: .set .identify :: deliver mode ++ .loopTest scmd mode :: k))

/-- `COUNT <- COUNT + 1`; counting past 2^32 - 1 is refused (R25). -/
def stepCountUp (k : List UOp) (s : State) : Progress :=
  if s.count = BitVec.allOnes 32 then .refused .countOverflow
  else .moved ({ s with count := s.count + 1 }.goto k)

/-- `emit found(ID)` (R136); the engine then waits for the host to take the event (R137). -/
def stepEmitFound (k : List UOp) (s : State) : Progress := .moved (s.emitFound.goto (.awaitFound :: k))

/-- `SCANREC <- SCANREC ++ [ID]` (R197); beyond a finite `SCAN_CAP` it is refused (R31, D18). -/
def stepAppend (k : List UOp) (s : State) : Progress :=
  if exceeds s.params.scanCap (s.scanrec.length + 1) then .refused .scanRecordFull
  else .moved (s.append.goto k)

/-- The host takes the found event by its next access, a write of `EVACK.TAKE`; any other access is not this
step's (R137, R229). -/
def stepAwaitFound (k : List UOp) (s : State) : Progress :=
  match s.host with
  | [] => .waiting
  | a :: rest =>
    if takesEvent a then .moved ((s.foundTaken rest).goto k) else .waiting

/-- `LastDevice` ends the loop; else the next pass (R136). -/
def stepLoopTest (scmd : Byte) (mode : SearchMode) (k : List UOp) (s : State) : Progress :=
  if s.ld = ldLast then .moved (s.goto k) else .moved (s.goto (.passReset scmd (some mode) :: k))

/-! ### The session -/

/-- `T.resume_power()` (R191). -/
def stepResumePower (k : List UOp) (s : State) : Progress :=
  s.askOr .resumePower k fun _ s => .moved (s.goto k)

/-- `wait T_SETTLE`: no transport call (R191, R231). -/
def stepSettle (k : List UOp) (s : State) : Progress :=
  .moved ((s.record (.settle s.params.tSettle)).goto k)

/-- `SESS <- Released`; then the bracket, the quirk step, the suspend (R193). -/
def stepBeginRelease (s : State) : Progress :=
  .moved ({ s with sess := .released }.goto [.lock, .quirkStep, .suspendPower, .unlock, .released .ok])

/-- `if QUIRK = 1: quirk_sleep()` (R193). -/
def stepQuirkStep (k : List UOp) (s : State) : Progress :=
  if s.quirk then .moved (s.goto (quirkFrame s.params ++ k)) else .moved (s.goto k)

/-- The end of the quirk step: a failure in it is a warning and RELEASE goes on (R194). -/
def stepQuirkCatch (failed : Bool) (k : List UOp) (s : State) : Progress :=
  if failed then .moved ((s.warn .quirk).goto k) else .moved (s.goto k)

/-- `e <- T.suspend_power()`: a failure is RELEASE's hard error, reported after the unlock (R193, R195). -/
def stepSuspendPower (k : List UOp) (s : State) : Progress :=
  s.askOr .suspendPower k fun _ s => .moved (s.goto k)

/-- `QUIRK <- 0`, whatever failed (R193, D33). -/
def stepReleased (e : Err) (s : State) : Progress := .moved ((s.apply .clearQuirk).goto [.idle e])

/-- `SESS <- Idle` (R193). -/
def stepIdle (e : Err) (s : State) : Progress := .moved ({ s with sess := .idle }.goto [.finish e])

/-- `SESS <- Scanning` (R196). -/
def stepBeginScan (scmd : Byte) (s : State) : Progress :=
  .moved ({ s with sess := .scanning }.goto [.scanQuirk scmd])

/-- `QUIRK <- 0` (R196). -/
def stepScanQuirk (scmd : Byte) (s : State) : Progress := .moved ((s.apply .clearQuirk).goto [.scanRecord scmd])

/-- `SCANREC <- []`; then the body of SEARCH_ALL with the collector (R196). -/
def stepScanRecord (scmd : Byte) (s : State) : Progress :=
  .moved ({ s with scanrec := [] }.goto (searchBody scmd .collect ++ [UOp.scanCatch .ok]))

/-- The end of SCAN's search phase: the report loop over the scan record (R196). -/
def stepScanCatch (e : Err) (s : State) : Progress := .moved (s.goto [.report e s.scanrec])

/-- `ID <- id` for the next entry, to be reported, or `SCANREC <- []` after the last (R196). -/
def stepReport (e : Err) (todo : List Identifier) (s : State) : Progress :=
  match todo with
  | [] => .moved ({ s with scanrec := [] }.goto [.scanEnd e])
  | i :: rest => .moved ((s.apply (.identifier i)).goto [.emitReport e rest])

/-- `r <- emit report(ID)` (R196); the engine then waits for the host's answer. -/
def stepEmitReport (e : Err) (todo : List Identifier) (s : State) : Progress :=
  .moved (s.emitReport.goto [.awaitReport e todo])

/-- The host answers the report event by its next access, a write of `EVACK.TAKE`; `CBFAIL` is a soft failure
and the loop goes on (R198). -/
def stepAwaitReport (e : Err) (todo : List Identifier) (s : State) : Progress :=
  match s.host with
  | [] => .waiting
  | a :: rest =>
    if takesEvent a then
      .moved ((s.reportTaken rest).goto [if callbackFailed a then .reportFailed e todo else .report e todo])
    else .waiting

/-- `warn W_CALLBACK`; the loop goes on with the next entry (R198). -/
def stepReportFailed (e : Err) (todo : List Identifier) (s : State) : Progress :=
  .moved ((s.warn .callback).goto [.report e todo])

/-- `SESS <- Acquired` (R196). -/
def stepScanEnd (e : Err) (s : State) : Progress := .moved ({ s with sess := .acquired }.goto [.finish e])

/-! ### One step, and running on -/

/-- One step of the sequencer: the first entry's step, `k` being what comes after it. Without an entry no
operation is in flight. -/
def transact (s : State) : Progress :=
  match s.seq with
  | [] => .waiting
  | .lock :: k => stepLock k s
  | .unlock :: k => stepUnlock k s
  | .resetAddressed :: k => stepResetAddressed k s
  | .resetIgnored :: k => stepResetIgnored k s
  | .writeByte v :: k => stepWriteByte v k s
  | .writeId :: k => stepWriteId k s
  | .readId :: k => stepReadId k s
  | .checksum bs :: k => stepChecksum bs k s
  | .set u :: k => stepSet u k s
  | .select :: k => stepSelect k s
  | .writeTx :: k => stepWriteTx k s
  | .readRx :: k => stepReadRx k s
  | .resumePower :: k => stepResumePower k s
  | .settle :: k => stepSettle k s
  | .beginRelease :: _ => stepBeginRelease s
  | .quirkStep :: k => stepQuirkStep k s
  | .quirkCatch failed :: k => stepQuirkCatch failed k s
  | .suspendPower :: k => stepSuspendPower k s
  | .released e :: _ => stepReleased e s
  | .idle e :: _ => stepIdle e s
  | .passReset scmd after :: k => stepPassReset scmd after k s
  | .passCommand scmd :: k => stepPassCommand scmd k s
  | .passTrue pos next :: k => stepPassTrue pos next k s
  | .passComplement pos next b :: k => stepPassComplement pos next b k s
  | .passWrite pos next d :: k => stepPassWrite pos next d k s
  | .afterPass scmd mode :: k => stepAfterPass scmd mode k s
  | .countUp :: k => stepCountUp k s
  | .emitFound :: k => stepEmitFound k s
  | .append :: k => stepAppend k s
  | .awaitFound :: k => stepAwaitFound k s
  | .loopTest scmd mode :: k => stepLoopTest scmd mode k s
  | .beginScan scmd :: _ => stepBeginScan scmd s
  | .scanQuirk scmd :: _ => stepScanQuirk scmd s
  | .scanRecord scmd :: _ => stepScanRecord scmd s
  | .scanCatch e :: _ => stepScanCatch e s
  | .report e todo :: _ => stepReport e todo s
  | .emitReport e todo :: _ => stepEmitReport e todo s
  | .awaitReport e todo :: _ => stepAwaitReport e todo s
  | .reportFailed e todo :: _ => stepReportFailed e todo s
  | .scanEnd e :: _ => stepScanEnd e s
  | .finish e :: _ => .moved (s.complete e)

/-- At most `n` steps of the sequencer; it stops early where it waits or stops. -/
def drive : Nat → State → Host.Outcome State Fault Refusal
  | 0, s => .next s
  | n + 1, s =>
    match transact s with
    | .moved s' => drive n s'
    | .waiting => .next s
    | .fault f => .fault f
    | .refused r => .refused r

/-- How many steps an entry can lead to before the next answer or host access is used. -/
def UOp.weight : UOp → Nat
  | .checksum _ => 2
  | .select => 6
  | .quirkStep => 7
  | .beginRelease => 14
  | .released _ => 3
  | .idle _ => 2
  | .afterPass _ _ => 7
  | .emitFound => 2
  | .loopTest _ _ => 2
  | .beginScan _ => 13
  | .scanQuirk _ => 12
  | .scanRecord _ => 11
  | .scanCatch _ => 4
  | .report _ _ => 3
  | .emitReport _ _ => 2
  | .reportFailed _ _ => 4
  | .scanEnd _ => 2
  | _ => 1

/-- A bound on the steps of the sequencer that the answers and host accesses at hand allow: every step lowers
it (Laws/Run.lean), so it limits nothing. It is no limit on the passes of a search (U27). -/
def State.budget (s : State) : Nat :=
  10 * s.bus.answers.length + 6 * s.host.length + (s.seq.map UOp.weight).sum

/-- Run the operation in flight as far as it goes: to its completion, to a stop, or to where it waits for the
lock, for an answer of the transport, or for the host to take an event. -/
def run (s : State) : Host.Outcome State Fault Refusal := drive s.budget s

/-- Issue an operation and run it. -/
def start (prog : List UOp) (s : State) : Host.Outcome State Fault Refusal := run (s.issue prog)

end Sys2Proof.Machine
end

