-- ==== Sys2Proof/Machine/Addressing.lean ====
section
/-! DEFINITION. The addressing operations (spec/41_addressing.md). -/

namespace Sys2Proof.Machine

/-- READ_ID (R160). -/
def execReadId (s : State) : Host.Outcome State Fault Refusal :=
  start [.lock, .resetAddressed, .writeByte s.params.cmdReadRom, .readId, .unlock, .finish .ok] s

/-- MATCH_ID (R161). -/
def execMatchId (s : State) : Host.Outcome State Fault Refusal :=
  start (matchFrame s.params ++ [.finish .ok]) s

/-- SKIP (R162). -/
def execSkip (s : State) : Host.Outcome State Fault Refusal :=
  start (skipFrame s.params ++ [.finish .ok]) s

/-- RESUME (R163). DEDUCED (log entry 20): two calls, as R102, R163 and the vectors V46, V47 have it, where R274
counts three. -/
def execResume (s : State) : Host.Outcome State Fault Refusal :=
  start [.lock, .resetAddressed, .writeByte s.params.cmdResume, .unlock, .finish .ok] s

/-- RESET_SELECT (R164): MATCH_ID or SKIP by `PCOUNT`, with no bracket of its own (R166). -/
def execResetSelect (s : State) : Host.Outcome State Fault Refusal :=
  start [.select, .finish .ok] s

/-- WRITE_READ (R165): the select step inside an outer bracket, the command bytes out, and with `R` the
response in. A block longer than a finite `TX_MAX` or `RX_MAX` is refused (D24; log entry 11); both are unbounded
by default. -/
def execWriteRead (resp : Bool) (s : State) : Host.Outcome State Fault Refusal :=
  if exceeds s.params.txMax s.txlen then .refused .commandTooLong
  else if resp && exceeds s.params.rxMax s.rxlen then .refused .responseTooLong
  else start ([.lock, .select, .writeTx] ++ (if resp then [.readRx] else []) ++ [.unlock, .finish .ok]) s

end Sys2Proof.Machine
end

