-- ==== Sys2Proof/Machine/Search.lean ====
section
/-! DEFINITION. The search operations (spec/40_rom_search.md): SEARCH_PASS and SEARCH_ALL. -/

namespace Sys2Proof.Machine

/-- SEARCH_PASS (R130): `Misuse` on a cursor that is not `Init` or `At(p)`, before any lock or bus call; else
one pass in its own bracket. `FAM` is accepted and ignored (R138). -/
def execSearchPass (alarm : Bool) (_fam : Byte) (s : State) : Host.Outcome State Fault Refusal :=
  if startsPass s.ld then
    start [.lock, .passReset (searchCommand s.params alarm) none, .unlock, .finish .ok] s
  else .next (s.reject .misuse)

/-- SEARCH_ALL (R136): passes from a fresh cursor until one reports `NoDevice` or `LastDevice`, each found
identifier counted and emitted. `FAM` is accepted and ignored (R138). -/
def execSearchAll (alarm : Bool) (_fam : Byte) (s : State) : Host.Outcome State Fault Refusal :=
  start (searchBody (searchCommand s.params alarm) .emit ++ [.finish .ok]) s

end Sys2Proof.Machine
end

