-- ==== Sys2Proof/Machine/Session.lean ====
section
/-! DEFINITION. The session operations (spec/42_session.md). -/

namespace Sys2Proof.Machine

/-- ACQUIRE (R191): `Misuse` unless Idle (R200); else power, settle, reset in one bracket, and the session is
Acquired. A hard error in the bracket leaves it Idle (R192). -/
def execAcquire (s : State) : Host.Outcome State Fault Refusal :=
  if s.sess = .idle then
    start [.lock, .resumePower, .settle, .resetIgnored, .unlock, .set .clearQuirk, .set .acquire, .finish .ok] s
  else .next (s.reject .misuse)

/-- RELEASE (R193): `NotAcquired` unless Acquired (R200); else the quirk step if `QUIRK`, the power suspend,
the unlock, and the session is Idle whatever failed. -/
def execRelease (s : State) : Host.Outcome State Fault Refusal :=
  if s.sess = .acquired then
    start [.beginRelease] s
  else .next (s.reject .notAcquired)

/-- SCAN (R196): `NotAcquired` unless Acquired (R200); else the body of SEARCH_ALL with the internal
collector, then one report event per entry of the scan record. `FAM` is accepted and ignored (R138). -/
def execScan (alarm : Bool) (_fam : Byte) (s : State) : Host.Outcome State Fault Refusal :=
  if s.sess = .acquired then
    start [.beginScan (searchCommand s.params alarm)] s
  else .next (s.reject .notAcquired)

end Sys2Proof.Machine
end

