-- ==== Sys2Proof/Machine/Dispatch.lean ====
section
/-! DEFINITION. One arm per operation of spec/opcode_table.json. -/

namespace Sys2Proof.Machine

def exec (i : Instr) (s : State) : Host.Outcome State Fault Refusal :=
  match i with
  | .searchPass alarm fam => Sys2Proof.Machine.execSearchPass alarm fam s
  | .searchAll alarm fam => Sys2Proof.Machine.execSearchAll alarm fam s
  | .readId => Sys2Proof.Machine.execReadId s
  | .matchId => Sys2Proof.Machine.execMatchId s
  | .skip => Sys2Proof.Machine.execSkip s
  | .resume => Sys2Proof.Machine.execResume s
  | .resetSelect => Sys2Proof.Machine.execResetSelect s
  | .writeRead resp => Sys2Proof.Machine.execWriteRead resp s
  | .acquire => Sys2Proof.Machine.execAcquire s
  | .release => Sys2Proof.Machine.execRelease s
  | .scan alarm fam => Sys2Proof.Machine.execScan alarm fam s

end Sys2Proof.Machine
end

