-- ==== Sys2Proof/Machine/HostPort.lean ====
section
/-! DEFINITION. The host's register port (spec/10_state.md R35, R36) and the hardware reset
(spec/70_reset_and_hazards.md R260). -/

namespace Sys2Proof.Machine

/-! ### Offsets (R35) -/

def cmdOffset : Nat := 0x00
def txbufOffset : Nat := 0x100
def rxbufOffset : Nat := 0x200

/-- The number of bytes of each buffer in the register packaging (R32, R35). -/
def bufferBytes : Nat := 256

/-- The offset is that of a byte of `TXBUF`, or of `RXBUF`. -/
def inTxbuf (off : Nat) : Bool := txbufOffset ≤ off && off < txbufOffset + bufferBytes
def inRxbuf (off : Nat) : Bool := rxbufOffset ≤ off && off < rxbufOffset + bufferBytes

/-- The nine bits of a length that its register holds, the others 0 (R35). DESIGN CHOICE (log entry 19): bits 31:9
read 0, and of a length above 511, which no host write gives, the low nine bits are read. -/
def lengthField (n : Nat) : Word := BitVec.ofNat 32 (n % 512)

/-- The value of a word register, where the offset has one that can be read (R35). -/
def readWord (off : Nat) (s : State) : Except Fault Word :=
  match off with
  | 0x04 => .ok (statusWord s.status s.quirk s.sess)
  | 0x08 => .ok (s.ld.setWidth 32)
  | 0x0C => .ok (s.acc.extractLsb' 0 32)
  | 0x10 => .ok (s.acc.extractLsb' 32 32)
  | 0x14 => .ok ((accOf s.id).extractLsb' 0 32)
  | 0x18 => .ok ((accOf s.id).extractLsb' 32 32)
  | 0x1C => .ok s.count
  | 0x20 => .ok s.pcount
  | 0x24 => .ok (lengthField s.txlen)
  | 0x28 => .ok (lengthField s.rxlen)
  | 0x00 | 0x2C => .error .writeOnly
  | _ => .error (if inTxbuf off || inRxbuf off then .accessSize else .unmappedOffset)

/-- The offset is that of a word register. -/
def isWordOffset (off : Nat) : Bool := off % 4 == 0 && off ≤ 0x2C

/-- The value of a byte of a buffer (R35); one nothing has written is a fault (U11). -/
def readByteAt (off : Nat) (s : State) : Except Fault Byte :=
  if inTxbuf off then
    match s.txbuf.read? (off - txbufOffset) with
    | some b => .ok b
    | none => .error .unwrittenByte
  else if inRxbuf off then
    match s.rxbuf.read? (off - rxbufOffset) with
    | some b => .ok b
    | none => .error .unwrittenByte
  else .error (if isWordOffset off then .accessSize else .unmappedOffset)

/-- A host write of a word register other than `CMD`, while idle (R35). R35 says of `LD` that a write's bits above
the field are ignored. DESIGN CHOICE (log entry 19): so are bits 31:9 of `TXLEN` and `RXLEN` and bits 31:2 of
`EVACK`. DESIGN CHOICE (log entry 7): a write of `EVACK` while no event is pending takes nothing. -/
def writeWord (off : Nat) (v : Word) (s : State) : Except Fault State :=
  match off with
  | 0x08 => .ok { s with ld := v.extractLsb' 0 7 }
  | 0x0C => .ok { s with acc := s.acc.extractLsb' 32 32 ++ v }
  | 0x10 => .ok { s with acc := v ++ s.acc.extractLsb' 0 32 }
  | 0x14 => .ok { s with id := idOf ((accOf s.id).extractLsb' 32 32 ++ v) }
  | 0x18 => .ok { s with id := idOf (v ++ (accOf s.id).extractLsb' 0 32) }
  | 0x20 => .ok { s with pcount := v }
  | 0x24 => .ok { s with txlen := (v.extractLsb' 0 9).toNat }
  | 0x28 => .ok { s with rxlen := (v.extractLsb' 0 9).toNat }
  | 0x2C => .ok s
  | 0x04 | 0x1C => .error .readOnly
  | _ => .error (if inTxbuf off || inRxbuf off then .accessSize else .unmappedOffset)

/-- A host write of a byte of `TXBUF`, while idle (R35). -/
def writeByteAt (off : Nat) (v : Byte) (s : State) : Except Fault State :=
  if inTxbuf off then .ok { s with txbuf := s.txbuf.write (off - txbufOffset) v }
  else if inRxbuf off then .error .readOnly
  else .error (if isWordOffset off then .accessSize else .unmappedOffset)

/-- A host read puts the value in the output and changes nothing else (R36: the current value, also while
busy). -/
def hostRead (off : Nat) (value : Except Fault Word) (s : State) : Host.Outcome State Fault Refusal :=
  match value with
  | .ok v => .next (s.record (.hostRead off v))
  | .error f => .fault f

/-- The outcome of a host write. -/
def hostWrite (r : Except Fault State) : Host.Outcome State Fault Refusal :=
  match r with
  | .ok s => .next s
  | .error f => .fault f

/-- A byte read as a word, its upper bits 0. -/
def byteRead (off : Nat) (s : State) : Except Fault Word := (readByteAt off s).map (·.setWidth 32)

/-- A write to `CMD` while idle (R109): an illegal word completes at once with `Misuse` (R107), a legal one
issues its operation. -/
def command (w : Word) (s : State) : Host.Outcome State Fault Refusal :=
  match decode w with
  | .ok i => exec i s
  | .error _ => .next (s.reject .misuse)

/-- A hardware reset while idle: every piece of the engine's state to its value of R37. What is not the
engine's stays: the parameters, the host, the transport and its devices, the output so far. -/
def hardReset (s : State) : State :=
  { State.reset with params := s.params, host := s.host, bus := s.bus, log := s.log }

/-- One host input while no operation is in flight. -/
def hostIdle (a : HostInput) (s : State) : Host.Outcome State Fault Refusal :=
  match a with
  | .write off v => if off = cmdOffset then command v s else hostWrite (writeWord off v s)
  | .writeByte off v => hostWrite (writeByteAt off v s)
  | .read off => hostRead off (readWord off s) s
  | .readByte off => hostRead off (byteRead off s) s
  | .hardReset => .next (hardReset s)

/-- One host input while an operation is in flight and waits (R36): reads return the current value, writes are
ignored. A write that takes a pending event is not seen here: the sequencer takes it. A hardware reset is
refused (R260). -/
def hostBusy (a : HostInput) (s : State) : Host.Outcome State Fault Refusal :=
  match a with
  | .write _ _ | .writeByte _ _ => .next s
  | .read off => hostRead off (readWord off s) s
  | .readByte off => hostRead off (byteRead off s) s
  | .hardReset => .refused .resetWhileBusy

end Sys2Proof.Machine
end

