-- ==== Sys2Proof/Machine/Step.lean ====
section
/-! DEFINITION. One step of the machine. The engine fetches no instructions (spec/10_state.md R27): its next
operation is the host's next write to `CMD`. -/

namespace Sys2Proof.Machine

/-- While an operation is in flight it runs on as far as it can; where it waits, the host's next input is
served, and with none the machine waits (a step that changes nothing). While none is in flight, the host's
next input is taken; a write to `CMD` issues and runs an operation. -/
def step (s : State) : Host.Outcome State Fault Refusal :=
  if s.status.busy then
    match transact s with
    | .waiting =>
      match s.host with
      | [] => .next s
      | a :: rest => hostBusy a { s with host := rest }
    | _ => run s
  else
    match s.host with
    | [] => .next s
    | a :: rest => hostIdle a { s with host := rest }

/-- `s` with a write of the command word to `CMD` as the host's next access, and no operation in flight. -/
def State.withFetchWord (s : State) (nbits w : Nat) : State :=
  { s with
    host := .write cmdOffset (BitVec.ofNat 32 (w % 2 ^ nbits)) :: s.host
    status := { s.status with busy := false } }

end Sys2Proof.Machine
end

