-- ==== Sys2Proof/Machine/Environment.lean ====
section
/-! DEFINITION. What the outside world can do to the machine between two steps (spec/00_scope.md R7): the host
queues accesses, the transport gets answers, devices come and go, another caller takes or frees the bus lock
(spec/60_exceptions.md R233). No step of the machine does any of these. -/

namespace Sys2Proof.Machine

/-- The host queues more accesses. -/
def State.queueHost (s : State) (l : List HostInput) : State := { s with host := s.host ++ l }

/-- The caller hands over command bytes, and the length of its response buffer, of any length (R8, R32: unbounded
lists); the register port reaches 256 of each (R35). While an operation is in flight it changes nothing (R36). -/
def State.loadTx (s : State) (bs : List Byte) : State :=
  if s.status.busy then s else { s with txlen := bs.length, txbuf := s.txbuf.writeBlock 0 bs }
def State.expectRx (s : State) (n : Nat) : State := if s.status.busy then s else { s with rxlen := n }

/-- The transport will answer further calls. -/
def State.supply (s : State) (l : List Answer) : State :=
  { s with bus := { s.bus with answers := s.bus.answers ++ l } }

/-- The devices on the bus are now these (U5: devices may arrive and leave). -/
def State.attach (s : State) (ds : List Device) : State := { s with bus := { s.bus with devices := ds } }

/-- Another caller asks for the bus lock: it gets it if the engine does not hold it (R70). -/
def State.otherLocks (s : State) : State :=
  if s.lockDepth = 0 then { s with bus := { s.bus with lockedElsewhere := true } } else s

/-- The other caller releases the bus lock. -/
def State.otherUnlocks (s : State) : State := { s with bus := { s.bus with lockedElsewhere := false } }

/-- A device just powered up: deaf until the first bus reset, unmarked. DESIGN CHOICE (log entry 4). -/
def Device.fresh (rom : Acc) (alarm : Bool) (responses : List (List Byte × List Byte)) : Device where
  rom := rom
  alarm := alarm
  responses := responses
  st := { mode := .off, rc := false }

end Sys2Proof.Machine
end

