-- ==== Sys2Proof/Reference.lean ====
section
/-! DEFINITION. The pseudocode of the spec in direct style, for claims to be stated against: the transport's
answers to a list of calls, the search pass (spec/40_rom_search.md R131 with the table of R132), the search
loop (R136, R197) and the report loop (spec/42_session.md R196, R198), each as one recursive function over the
state. The machine does not use this file: the sequencer is a second, independent reading of the same rules,
and claims say that the two agree. -/

namespace Sys2Proof.Reference

open Sys2Proof.Machine

/-- From `s` the transport answers these calls, in this order, with these replies, and leaves `t`. It holds of
at most one `t`. -/
def Answers (s : State) : List (Call × Reply) → State → Prop
  | [], t => t = s
  | (c, r) :: l, t => ∃ s', s.ask c = some (r, s') ∧ Answers s' l t

/-- An operation has been issued and has opened its bracket. -/
def opened (s : State) : State := (s.issue []).locked

/-- The bracket is closed and the operation completes with `e`. -/
def closed (s : State) (e : Err) : State := s.unlocked.complete e

/-- How a routine ends: it returns; a transport call failed, and this is the state at the failure; or it still
waits for an answer of the transport, or for the host. -/
inductive Ending where
  | returned (s : State)
  | failed (s : State)
  | unfinished

/-- `x <- T.call(c) else raise`, and go on with `x` (R12). -/
def calling (s : State) (c : Call) (go : Reply → State → Ending) : Ending :=
  match s.ask c with
  | none => .unfinished
  | some (.fail, s') => .failed s'
  | some (r, s') => go r s'

/-- The table of R132, line by line: the direction at a `(0, 0)` pair and the new value of `next`. -/
def tieBreak (ld : Discrepancy) (acc : Acc) (pos : Nat) (next : Discrepancy) : Bool × Discrepancy :=
  if pos > ld.toNat then (true, BitVec.ofNat 7 pos)
  else if pos = ld.toNat then (false, next)
  else if acc.getLsbD (pos - 1) then (true, BitVec.ofNat 7 pos)
  else (false, next)

/-- The loop over the positions of R131, `n` positions before its end: `pos = 65 - n`. -/
def positions : Nat → Discrepancy → State → Ending
  | 0, next, s => .returned { s with ld := next }
  | n + 1, next, s =>
    calling s .readBit fun b s =>
    calling s .readBit fun c s =>
      if b.flag = true ∧ c.flag = true then .returned { s with ld := ldNone }
      else
        let choice := if b.flag ≠ c.flag then (b.flag, next) else tieBreak s.ld s.acc (64 - n) next
        calling s (.writeBit choice.1) fun _ s =>
          positions n choice.2 { s with acc := setAccBit s.acc (64 - n) choice.1 }

/-- `pass(SCMD)` of R131. -/
def onePass (scmd : Byte) (s : State) : Ending :=
  calling s .reset fun p s =>
    if p.flag = false then .returned { s with ld := ldNone }
    else calling s (.writeByte scmd) fun _ s => positions 64 ldLast s

/-- `emit found(ID)` and the host's taking of it (R13, R137). -/
def emitted (s : State) : Option State :=
  match s.host with
  | a :: rest =>
    if takesEvent a then
      some { s with
        host := rest, log := .found s.id :: s.log, status := { s.status with foundPending := false } }
    else none
  | [] => none

/-- `collect(ID)` (R197); none where the scan record is full (D18). -/
def collected (s : State) : Option State :=
  match s.params.scanCap with
  | some cap => if s.scanrec.length < cap then some (kept s) else none
  | none => some (kept s)
where
  kept (s : State) : State :=
    { s with scanrec := s.scanrec ++ [s.id], quirk := s.quirk || s.id.family == s.params.quirkFamily }

/-- The loop of R136 through at most `n` passes, each found identifier emitted or collected. -/
def search (scmd : Byte) (mode : SearchMode) : Nat → State → Ending
  | 0, _ => .unfinished
  | n + 1, s =>
    match onePass scmd s with
    | .unfinished => .unfinished
    | .failed s => .failed s
    | .returned s =>
      if s.ld = ldNone then .returned s
      else if s.count.toNat + 1 = 2 ^ 32 then .unfinished
      else
        let s := { s with count := s.count + 1, id := idOf s.acc }
        match (match mode with | .emit => emitted s | .collect => collected s) with
        | none => .unfinished
        | some s => if s.ld = ldLast then .returned s else search scmd mode n s

/-- `quirk_sleep()` of R194: SKIP in a bracket of its own, then the sleep byte; any failure is a warning and
ends the step. None while it waits for an answer. -/
def quirkSleep (s : State) : Option State :=
  match s.locked.ask .reset with
  | none => none
  | some (p, s) =>
    if p.flag = false then some (s.unlocked.warn .quirk)
    else
      match s.ask (.writeByte s.params.cmdSkipRom) with
      | none => none
      | some (.fail, s) => some (s.unlocked.warn .quirk)
      | some (_, s) =>
        match s.unlocked.ask (.writeByte s.params.quirkSleepCmd) with
        | none => none
        | some (.fail, s) => some (s.warn .quirk)
        | some (_, s) => some s

/-- What RELEASE does about the quirk (R193): nothing without the flag. -/
def quirkPart (s : State) : Option State := if s.quirk = true then quirkSleep s else some s

/-- The fresh cursor of R136. -/
def fresh (s : State) : State := { s with ld := 0, acc := 0, count := 0 }

/-- The report loop of R196: one event per entry, in order; a failed callback is a warning (R198). -/
def reported : List Identifier → State → Option State
  | [], s => some s
  | i :: todo, s =>
    match s.host with
    | a :: rest =>
      if takesEvent a then
        let s := { s with
          id := i, host := rest, log := .report i :: s.log, status := { s.status with reportPending := false } }
        reported todo (if callbackFailed a then s.warn .callback else s)
      else none
    | [] => none

/-- RELEASE's end: the bracket closed, `QUIRK <- 0; SESS <- Idle`, complete (R193). -/
def releaseEnd (s : State) (e : Err) : State := { s.unlocked with quirk := false, sess := .idle }.complete e

/-- The calls of RESET_SELECT with the replies of its success (R164). -/
def selectCalls (s : State) : List (Call × Reply) :=
  if s.pcount.toNat > 1 then
    [(.reset, .presence true), (.writeByte s.params.cmdMatchRom, .ok), (.writeBlock s.id.toList, .ok)]
  else [(.reset, .presence true), (.writeByte s.params.cmdSkipRom, .ok)]

/-- A frame that fails: the calls that succeed, then the reply that raises `e` (R167, R225). -/
def failures (calls : List (Call × Reply)) : List (List (Call × Reply) × Err) :=
  ([(.reset, .presence false)], .noPresence) ::
    (List.range calls.length).map fun i =>
      (calls.take i ++ (calls.drop i).head?.toList.map fun q => (q.1, .fail), .busIoFailure)

/-- SCAN's end: `SCANREC <- []; SESS <- Acquired`, complete (R196). -/
def scanEnd (s : State) (e : Err) : State := { s with scanrec := [], sess := .acquired }.complete e

end Sys2Proof.Reference
end

