-- ==== Sys2Proof/Safety.lean ====
section
/-! DEFINITION. What a state of a run looks like (`State.Consistent`), and the frames claims are stated with. -/

namespace Sys2Proof.Machine

/-- The entries of the sequencer that end an operation. -/
def UOp.ends : UOp → Bool
  | .beginRelease | .released _ | .idle _ | .beginScan _ | .scanQuirk _ | .scanRecord _ | .scanCatch _
  | .report _ _ | .emitReport _ _ | .awaitReport _ _ | .reportFailed _ _ | .scanEnd _ | .finish _ => true
  | _ => false

/-- The entries that are only ever the next one: each is put there by the step before it, or by the issue of
the operation. -/
def UOp.onlyNext : UOp → Bool
  | .lock | .awaitFound | .beginRelease | .idle _ | .beginScan _ | .scanQuirk _ | .scanRecord _ | .report _ _
  | .emitReport _ _ | .awaitReport _ _ | .reportFailed _ _ | .scanEnd _ => true
  | _ => false

/-- The entries of a search whose identifiers go to the scan record. -/
def UOp.collects : UOp → Bool
  | .passReset _ (some .collect) | .afterPass _ .collect | .append | .set .flagQuirk | .loopTest _ .collect => true
  | _ => false

/-- The contents of the sequencer while an operation is in flight: its last entry ends the operation, no other
does, and a bracket is opened, or an event waited on, only by the step that comes next. -/
def wellSequenced : List UOp → Bool
  | [] => false
  | [u] => u.ends
  | u :: v :: k => !u.ends && !v.onlyNext && wellSequenced (v :: k)

/-- The position counter of a pass is in 1..64 (R27, R142). -/
def UOp.positionOk : UOp → Bool
  | .passTrue pos _ | .passComplement pos _ _ | .passWrite pos _ _ | .set (.chosenBit pos _) =>
    1 ≤ pos && pos ≤ lastPosition
  | _ => true

/-- The session state against the operation in flight, which its last entry tells (R29): Released from the
first step of a RELEASE to the last but one, Scanning in the same way in a SCAN, else Idle or Acquired. -/
def sessionMatches (sess : Session) (last : Option UOp) : Bool :=
  match last with
  | some .beginRelease | some (.beginScan _) => sess == .acquired
  | some (.released _) | some (.idle _) => sess == .released
  | some (.scanQuirk _) | some (.scanRecord _) | some (.scanCatch _) | some (.report _ _) | some (.emitReport _ _)
  | some (.awaitReport _ _) | some (.reportFailed _ _) | some (.scanEnd _) => sess == .scanning
  | _ => sess == .idle || sess == .acquired

/-- The state is waiting for the host to take a found event, or to answer a report event. -/
def awaitsFound : List UOp → Bool
  | .awaitFound :: _ => true
  | _ => false
def awaitsReport : List UOp → Bool
  | .awaitReport _ _ :: _ => true
  | _ => false

/-- What holds of every state of a run: at reset, and after every step. -/
structure State.Consistent (s : State) : Prop where
  /-- `BUSY` is 1 from the issue of an operation until its completion (R28) -/
  busy : s.status.busy = !s.seq.isEmpty
  /-- while an operation is in flight, `DONE` and `ERR` are clear (R28, R109) -/
  inFlight : s.status.busy = true → s.status.done = false ∧ s.status.err = .ok
  sequenced : s.seq = [] ∨ wellSequenced s.seq = true
  positions : s.seq.all UOp.positionOk = true
  /-- the engine holds the lock once for every bracket still to be closed that is not still to be opened (R33) -/
  balanced : s.lockDepth + s.seq.count .lock = s.seq.count .unlock
  /-- the lock has one holder (R70) -/
  exclusive : s.lockDepth ≠ 0 → s.bus.lockedElsewhere = false
  session : sessionMatches s.sess s.seq.getLast? = true
  /-- only a SCAN collects -/
  collecting : s.seq.any UOp.collects = true → s.sess = .scanning
  /-- a session is acquired only where no SCAN and no RELEASE is in flight (R191) -/
  acquiring : .set .acquire ∈ s.seq → s.sess = .idle ∨ s.sess = .acquired
  /-- the scan record is empty whenever no SCAN is in flight (R31) -/
  record : s.sess ≠ .scanning → s.scanrec = []
  /-- `QUIRK` is 0 in Idle (R192) -/
  quirk : s.sess = .idle → s.quirk = false
  /-- both are cleared before the session leaves SCAN, or RELEASE (R193, R196) -/
  emptied : ∀ e, s.seq = [.scanEnd e] → s.scanrec = []
  cleared : ∀ e, s.seq = [.idle e] → s.quirk = false
  found : s.status.foundPending = awaitsFound s.seq
  report : s.status.reportPending = awaitsReport s.seq
  /-- the buffers are in canonical form -/
  buffers : s.txbuf.wf = true ∧ s.rxbuf.wf = true

/-! ### Frames -/

/-- The registers only the host writes (R20: `PCOUNT`, `TXLEN`, `TXBUF`, `RXLEN`), and the parameters. Every
byte of `TXBUF` reads as before. -/
def KeepsHostRegisters (s t : State) : Prop :=
  t.pcount = s.pcount ∧ t.txlen = s.txlen ∧ t.rxlen = s.rxlen ∧ t.params = s.params ∧
    ∀ k, t.txbuf.read? k = s.txbuf.read? k

/-- Every byte of `RXBUF` reads as before. -/
def KeepsRxbuf (s t : State) : Prop := ∀ k, t.rxbuf.read? k = s.rxbuf.read? k

/-- The cursor. -/
def KeepsCursor (s t : State) : Prop := t.ld = s.ld ∧ t.acc = s.acc

/-- The session layer: `SESS`, `QUIRK`, `SCANREC` (R29). -/
def KeepsSession (s t : State) : Prop := t.sess = s.sess ∧ t.quirk = s.quirk ∧ t.scanrec = s.scanrec

/-- The soft-warning flags are both clear, as the issue left them (R28). -/
def NoWarnings (t : State) : Prop := t.status.wQuirk = false ∧ t.status.wCallback = false

/-- No event is pending that was not pending before. -/
def KeepsPending (s t : State) : Prop :=
  t.status.foundPending = s.status.foundPending ∧ t.status.reportPending = s.status.reportPending

/-- What the output gained since `s`, newest first: `t`'s output is this before `s`'s. -/
def Gained (s t : State) (l : List Event) : Prop := t.log = l ++ s.log

end Sys2Proof.Machine
end

