-- ==== Sys2Proof/Certificates/Slice0/Obligations.lean ====
section
/-! DEFINITION. The statements for the provers. Each docstring says which rule of the spec it formalises.
Rules marked `[decision: ...]` in the spec are the spec's own choices; a docstring names the decision. -/

section

open Sys2Proof Sys2Proof.Machine Sys2Proof.Reference

/-! ### Encoding -/

/-- R104, R105 (D2): every operation, with every value of its operands, is well-formed, and decoding its
command word gives it back. -/
def Obligations.DecodeOfEncodeGivesTheOperationBack : Prop :=
  ∀ i : Instr, i.wf = true ∧ decode (encode i) = .ok i

/-- R104, R105 (D2): each legal command word is the one word of its operation. -/
def Obligations.EncodeOfDecodeGivesTheWordBack : Prop :=
  ∀ (w : Word) (i : Instr), decode w = .ok i → encode i = w

/-- A command word breaks R107: a reserved operation code, a nonzero reserved bit, `A`, `R` or `FAM` in an
operation that does not use it, or any of bits 31:16. -/
def Sys2Proof.BreaksR107 (w : Word) : Prop :=
  let op := (w.extractLsb' 0 4).toNat
  (op = 0 ∨ 12 ≤ op) ∨ w.extractLsb' 6 2 ≠ 0 ∨
    (w.getLsbD 4 = true ∧ op ≠ 1 ∧ op ≠ 2 ∧ op ≠ 11) ∨ (w.getLsbD 5 = true ∧ op ≠ 8) ∨
    (w.extractLsb' 8 8 ≠ 0 ∧ op ≠ 1 ∧ op ≠ 2 ∧ op ≠ 11) ∨ w.extractLsb' 16 16 ≠ 0

/-- The state after an operation that ended before its first bus call with the error `e`: `STATUS` says so, and
nothing else has changed. -/
def Sys2Proof.endedWith (s : State) (e : Err) : State :=
  { s with
    seq := []
    status :=
      { s.status with busy := false, done := true, err := e, wQuirk := false, wCallback := false } }

/-- R107 (D12): an illegal command word, and no other, completes at once with `Misuse`: no transport call, no
lock, no other change. Every other word names an operation. -/
def Obligations.IllegalCommandWordIsMisuse : Prop :=
  ∀ (s : State) (w : Word) (rest : List HostInput),
    s.status.busy = false → s.host = .write 0 w :: rest →
      (BreaksR107 w → step s = .next (endedWith { s with host := rest } .misuse)) ∧
      (¬BreaksR107 w → ∃ i, decode w = .ok i)

/-- R105 (D2): words written out from the table, one at least of every operation code (V73 to V75, V70 to V72 among
them), decode to their operations, or are rejected for the clause they break. -/
def Obligations.WrittenOutCommandWordsDecode : Prop :=
  decode 0x00000001 = .ok (.searchPass false 0) ∧ decode 0x0000FF11 = .ok (.searchPass true 0xFF) ∧
  decode 0x00002802 = .ok (.searchAll false 0x28) ∧ decode 0x00000003 = .ok .readId ∧
  decode 0x00000004 = .ok .matchId ∧ decode 0x00000005 = .ok .skip ∧ decode 0x00000006 = .ok .resume ∧
  decode 0x00000007 = .ok .resetSelect ∧ decode 0x00000008 = .ok (.writeRead false) ∧
  decode 0x00000028 = .ok (.writeRead true) ∧ decode 0x00000009 = .ok .acquire ∧
  decode 0x0000000A = .ok .release ∧ decode 0x0000281B = .ok (.scan true 0x28) ∧
  decode 0x0000000C = .error .reservedOpcode ∧ decode 0x00000043 = .error .reservedBits ∧
  decode 0x00000013 = .error .alarmUnused ∧ decode 0x00000024 = .error .respUnused ∧
  decode 0x00002803 = .error .famUnused ∧ decode 0x00010003 = .error .highBits

/-- R101: `id_of` takes byte `j` from bits `8j+7:8j`; `acc_of` is its inverse on both sides; `acc_of` is `be_of`
with its eight bytes in reverse order. -/
def Obligations.IdentifierAndAccumulatorRoundTrip : Prop :=
  (∀ (a : Acc) (j : Nat), j < 8 → (idOf a).toList[j]? = some (a.extractLsb' (8 * j) 8)) ∧
  (∀ i : Identifier, idOf (accOf i) = i) ∧ (∀ a : Acc, accOf (idOf a) = a) ∧
  (∀ (i : Identifier) (j : Nat), j < 8 →
    (beOf i).extractLsb' (8 * (7 - j)) 8 = (accOf i).extractLsb' (8 * j) 8) ∧
  (∀ i : Identifier, Identifier.ofList i.toList = i)

/-- R65 (derived there from R64 and R100): bit `k` of byte `j` of an identifier is position `8j+k+1`. -/
def Obligations.IdentifierBitsAreBusPositions : Prop :=
  ∀ (i : Identifier) (j k : Nat) (b : Byte),
    k < 8 → i.toList[j]? = some b → b.getLsbD k = accBit (accOf i) (8 * j + k + 1)

/-- R66, R161 (the slot order in a byte is the spec's G3, log entry 3): the eight bytes of MATCH_ID present the
64 bits of the identifier in position order, those a search pass that found it wrote. -/
def Obligations.MatchBytesPresentPositionsInOrder : Prop :=
  ∀ i : Identifier,
    (Call.writeBlock i.toList).slots = (List.range 64).map fun n => Slot.write (accBit (accOf i) (n + 1))

/-- R35, R28 (D3): every field of the `STATUS` word, `ERR` with the codes of R108 and `SESS` with those of R29, and
0 in all its other bits. -/
def Obligations.StatusWordFields : Prop :=
  ∀ (st : Status) (q : Bool) (se : Session),
    let w := statusWord st q se
    w.getLsbD 0 = st.busy ∧ w.getLsbD 1 = st.done ∧ w.getLsbD 2 = st.foundPending ∧
    w.getLsbD 3 = st.reportPending ∧ w.getLsbD 8 = st.wQuirk ∧ w.getLsbD 9 = st.wCallback ∧ w.getLsbD 10 = q ∧
    w.getLsbD 11 = false ∧ w.extractLsb' 14 18 = 0 ∧
    w.extractLsb' 4 4 = (match st.err with
      | .ok => 0 | .noPresence => 1 | .busIoFailure => 2 | .checksumMismatch => 3 | .notAcquired => 4
      | .misuse => 5) ∧
    w.extractLsb' 12 2 = (match se with | .idle => 0 | .acquired => 1 | .scanning => 2 | .released => 3)

/-! ### Steps and the host port -/

/-- R109, R27 (D2): with no operation in flight, a write to `CMD` that decodes to `i` makes the step `exec i`,
the write taken from the host's accesses. -/
def Obligations.StepRunsTheDecodedCommand : Prop :=
  ∀ (s : State) (w : Word) (rest : List HostInput) (i : Instr),
    s.status.busy = false → s.host = .write 0 w :: rest → decode w = .ok i →
      step s = exec i { s with host := rest }

/-- The model's own entry for a program (log entry 9): a command word placed by `withFetchWord` is what the next
step runs, whatever the state was. -/
def Obligations.PlacedWordIsRunNext : Prop :=
  ∀ (s : State) (w : Nat) (i : Instr), decodeTableWord 16 w = some i →
    step (s.withFetchWord 16 w) = exec i { s with status := { s.status with busy := false } }

/-- R36 (D29), R109; that host accesses are served where the operation waits is the model's (log entry 7): while
an operation is in flight and waits, a host read of a word or a byte returns the current value, a write that
takes no event is ignored (also `EVACK` with `TAKE` 0, the model's choice), and the one write the engine takes
is `EVACK.TAKE` at a pending event, `CBFAIL` with a report being a soft failure (R198). -/
def Obligations.HostAccessWhileBusy : Prop :=
  ∀ (s : State) (a : HostInput) (rest : List HostInput),
    s.status.busy = true → s.host = a :: rest →
      (transact s = .waiting → ∀ off v, (a = .write off v ∨ ∃ b, a = .writeByte off b) →
        step s = .next { s with host := rest }) ∧
      (transact s = .waiting → ∀ off v, a = .read off → readWord off s = .ok v →
        step s = .next { s with host := rest, log := .hostRead off v :: s.log }) ∧
      (transact s = .waiting → ∀ off b, a = .readByte off → readByteAt off s = .ok b →
        step s = .next { s with host := rest, log := .hostRead off (b.setWidth 32) :: s.log }) ∧
      (∀ k v, s.seq = .awaitFound :: k → a = .write 0x2C v → v.getLsbD 0 = true →
        transact s = .moved
          { s with host := rest, seq := k, status := { s.status with foundPending := false } }) ∧
      (∀ e todo k v, s.seq = .awaitReport e todo :: k → a = .write 0x2C v → v.getLsbD 0 = true →
        transact s = .moved
          { s with
            host := rest, seq := [if v.getLsbD 1 then .reportFailed e todo else .report e todo],
            status := { s.status with reportPending := false } }) ∧
      (∀ e todo k, s.seq = .reportFailed e todo :: k →
        transact s = .moved
          { s with
            seq := [.report e todo], log := .warn .callback :: s.log,
            status := { s.status with wCallback := true } })

/-- The read-write word registers of R35 with the number of bits each holds. -/
def Sys2Proof.readWriteRegisters : List (Nat × Nat) :=
  [(0x08, 7), (0x0C, 32), (0x10, 32), (0x14, 32), (0x18, 32), (0x20, 32), (0x24, 9), (0x28, 9)]

/-- R35 (D3): a host write while idle, offset by offset: the field of its register takes the bits written, and
nothing else changes; a read of a register so written then gives them, upper bits 0. The model's own: bits 31:9 of
the lengths read 0 and are ignored when written (log entry 19), an `EVACK` with no event pending is ignored (log entry
7), and a length of 257 to 511, which R35 calls not legal, is stored as written (log entry 5). -/
def Obligations.RegisterWriteThenRead : Prop :=
  ∀ (s : State) (off : Nat) (v : Word) (rest : List HostInput),
    s.status.busy = false → s.host = .write off v :: rest →
      let u := { s with host := rest }
      (off = 0x08 → step s = .next { u with ld := v.extractLsb' 0 7 }) ∧
      (off = 0x0C → step s = .next { u with acc := s.acc.extractLsb' 32 32 ++ v }) ∧
      (off = 0x10 → step s = .next { u with acc := v ++ s.acc.extractLsb' 0 32 }) ∧
      (off = 0x14 → step s = .next { u with
        id := { s.id with
          family := v.extractLsb' 0 8, serial1 := v.extractLsb' 8 8, serial2 := v.extractLsb' 16 8,
          serial3 := v.extractLsb' 24 8 } }) ∧
      (off = 0x18 → step s = .next { u with
        id := { s.id with
          serial4 := v.extractLsb' 0 8, serial5 := v.extractLsb' 8 8, serial6 := v.extractLsb' 16 8,
          checksum := v.extractLsb' 24 8 } }) ∧
      (off = 0x20 → step s = .next { u with pcount := v }) ∧
      (off = 0x24 → step s = .next { u with txlen := v.toNat % 512 }) ∧
      (off = 0x28 → step s = .next { u with rxlen := v.toNat % 512 }) ∧
      (off = 0x2C → step s = .next u) ∧
      ∀ bits t, (off, bits) ∈ readWriteRegisters → step s = .next t →
        readWord off t = .ok (BitVec.ofNat 32 (v.toNat % 2 ^ bits))

/-- R35 (D3): a host write of a byte of `TXBUF` while idle is what a read of it then gives; every other byte of
`TXBUF`, those past the host's window too, and every byte of `RXBUF` is as before, and no register changes. -/
def Obligations.TxBufferWriteThenRead : Prop :=
  ∀ (s : State) (k : Nat) (b : Byte) (rest : List HostInput),
    s.status.busy = false → s.txbuf.wf = true → s.host = .writeByte (0x100 + k) b :: rest → k < 256 →
      ∃ t, step s = .next t ∧ readByteAt (0x100 + k) t = .ok b ∧
        (∀ a, a ≠ 0x100 + k → readByteAt a t = readByteAt a s) ∧
        (∀ j, j ≠ k → t.txbuf.read? j = s.txbuf.read? j) ∧
        t = { s with host := rest, txbuf := t.txbuf } ∧ t.txbuf.wf = true

/-- R37, U11 (D19; log entry 5): a byte of a buffer nothing has written since reset has no value, and a host
read of it is a fault. -/
def Obligations.UnwrittenBufferByteFaults : Prop :=
  ∀ (s : State) (off : Nat) (rest : List HostInput),
    s.status.busy = false → s.host = .readByte off :: rest →
      ((0x100 ≤ off ∧ off < 0x200 ∧ s.txbuf.read? (off - 0x100) = none) ∨
        (0x200 ≤ off ∧ off < 0x300 ∧ s.rxbuf.read? (off - 0x200) = none)) →
      step s = .fault .unwrittenByte

/-- R260 (D19): a hardware reset with no operation in flight puts every piece of the engine's state to its reset
value and leaves the environment and the output alone (the model's choice, log entry 10); with an operation in
flight it is given no meaning. -/
def Obligations.HardwareReset : Prop :=
  ∀ (s : State) (rest : List HostInput), s.host = .hardReset :: rest →
    (s.status.busy = false →
      step s = .next { State.reset with params := s.params, host := rest, bus := s.bus, log := s.log }) ∧
    (s.status.busy = true → transact s = .waiting → step s = .refused .resetWhileBusy)

/-! ### Reset and invariants -/

/-- R37 (D19): the reset values. `TXBUF` and `RXBUF` hold no byte. -/
def Obligations.ResetValues : Prop :=
  let s := State.reset
  s.ld = 0 ∧ s.acc = 0 ∧ s.id.toList = List.replicate 8 0 ∧ s.count = 0 ∧ s.pcount = 0 ∧ s.txlen = 0 ∧
  s.rxlen = 0 ∧ (∀ k, s.txbuf.read? k = none ∧ s.rxbuf.read? k = none) ∧
  statusWord s.status s.quirk s.sess = 0 ∧ s.sess = .idle ∧ s.quirk = false ∧ s.scanrec = [] ∧ s.seq = [] ∧
  s.lockDepth = 0

/-- R37: the state after reset is consistent. -/
def Obligations.ResetIsConsistent : Prop := State.reset.Consistent

/-- R28 to R33, R70, R190, R192: every step from a consistent state, reached or not, leaves a consistent state:
`BUSY` while and only while an operation is in flight, brackets balanced, the lock with one holder, the session
state and the scan record those of the operation in flight, the buffers in canonical form. -/
def Obligations.EveryStepKeepsConsistency : Prop :=
  ∀ s t : State, s.Consistent → step s = .next t → t.Consistent

/-- R33, R226: the engine holds the lock zero times whenever `BUSY` is 0, and over every step the lock calls it
made less the unlock calls are what its depth has gained. -/
def Obligations.NoLockIsLeaked : Prop :=
  ∀ s t : State, s.Consistent → step s = .next t →
    (t.status.busy = false → t.lockDepth = 0) ∧
    s.lockDepth + t.log.count .lock + s.log.count .unlock =
      t.lockDepth + s.log.count .lock + t.log.count .unlock

/-- Is the entry of the output a transport call? -/
def Sys2Proof.isCall : Event → Bool
  | .call _ _ => true
  | _ => false

/-- R69, R16: a step only appends to the output, and every transport call it made is there: as many as answers
it used up, in the order they were given. The output and the list of answers are the model's form (log entries 1
and 13). -/
def Obligations.OutputHoldsEveryTransportCall : Prop :=
  ∀ s t : State, step s = .next t →
    ∃ l, Gained s t l ∧ t.bus.answers = s.bus.answers.drop (l.countP isCall) ∧
      l.countP isCall ≤ s.bus.answers.length ∧ t.bus.calls = s.bus.calls + l.countP isCall

/-- Is the entry of the output a call of the given kind? -/
def Sys2Proof.isReadByte : Event → Bool
  | .call .readByte _ => true
  | _ => false
def Sys2Proof.isResumePower : Event → Bool
  | .call .resumePower _ => true
  | _ => false
def Sys2Proof.isSuspendPower : Event → Bool
  | .call .suspendPower _ => true
  | _ => false
def Sys2Proof.isChecksum : Event → Bool
  | .checksum _ _ => true
  | _ => false

/-- R273 (D7): no step of the machine makes `T.read_byte()`; of the operations only ACQUIRE makes
`T.resume_power()` and only RELEASE `T.suspend_power()`. And only READ_ID calls the checksum port (R141). -/
def Obligations.CallsTheEngineNeverMakes : Prop :=
  (∀ (s t : State) (l : List Event), step s = .next t → Gained s t l → l.any isReadByte = false) ∧
  (∀ (i : Instr) (s t : State) (l : List Event), exec i s = .next t → Gained s t l →
    (i ≠ .acquire → l.any isResumePower = false) ∧ (i ≠ .release → l.any isSuspendPower = false) ∧
    (i ≠ .readId → l.any isChecksum = false))

/-- R83 (D1; the list of answers is log entry 1): where an operation is in flight, the sequencer has a next step
as soon as the transport has any answer left and the lock can be had; it waits on nothing else but the host at a
pending event. -/
def Obligations.NextStepNeedsNoParticularAnswer : Prop :=
  ∀ s : State, s.seq ≠ [] → s.bus.answers ≠ [] → s.lockFree = true →
    awaitsFound s.seq = false → awaitsReport s.seq = false → transact s ≠ .waiting

/-- R62, R70 (how another caller is seen is log entry 12): while another caller holds the bus lock, an operation
makes no transport call, takes no lock and puts nothing in the output: it waits, or it has ended before its
first bus call. -/
def Obligations.LockHeldElsewhereBlocks : Prop :=
  ∀ (i : Instr) (s t : State), s.lockFree = false → exec i s = .next t →
    t.bus = s.bus ∧ t.lockDepth = s.lockDepth ∧ t.log = s.log ∧ t.host = s.host ∧
      (t.status.busy = true ∨ ∃ e, t = endedWith s e)

/-- R25, U17 (D17): after a pass that found a device the search loop counts it, by one; counting past 2^32 - 1 is
given no meaning. -/
def Obligations.CountOverflowIsRefused : Prop :=
  ∀ (s : State) (k : List UOp),
    (∀ scmd mode, s.seq = .afterPass scmd mode :: k → s.ld ≠ 66 →
      ∃ k', transact s = .moved { s with seq := .countUp :: k' }) ∧
    (s.seq = .countUp :: k → s.count.toNat = 2 ^ 32 - 1 → transact s = .refused .countOverflow) ∧
    (s.seq = .countUp :: k → s.count.toNat < 2 ^ 32 - 1 →
      ∃ t, transact s = .moved t ∧ t = { s with seq := k, count := t.count } ∧
        t.count.toNat = s.count.toNat + 1)

/-! ### Addressing -/

/-- R160, R167: READ_ID with every outcome of every call: after the block read one call on the checksum port, and
the identifier read, all eight bytes, if its checksum is 0; else the error of the step that failed, the identifier
register unchanged. -/
def Obligations.ReadIdFollowsItsRule : Prop :=
  ∀ s : State, s.lockFree = true →
    (∀ bs t, Answers (opened s)
        [(.reset, .presence true), (.writeByte s.params.cmdReadRom, .ok), (.readBlock 8, .bytes bs)] t →
      let c := checksum8 s.params bs
      let u := { t with log := .checksum bs c :: t.log }
      exec .readId s = .next
        (if c = 0 then closed { u with id := .ofList bs } .ok else closed u .checksumMismatch)) ∧
    (∀ l e t, (l, e) ∈ failures
        [(.reset, .presence true), (.writeByte s.params.cmdReadRom, .ok), (.readBlock 8, .ok)] →
      Answers (opened s) l t → exec .readId s = .next (closed t e))

/-- R161, R167: MATCH_ID with every outcome of every call. -/
def Obligations.MatchIdFollowsItsRule : Prop :=
  ∀ s : State, s.lockFree = true →
    let calls : List (Call × Reply) :=
      [(.reset, .presence true), (.writeByte s.params.cmdMatchRom, .ok), (.writeBlock s.id.toList, .ok)]
    (∀ t, Answers (opened s) calls t → exec .matchId s = .next (closed t .ok)) ∧
    (∀ l e t, (l, e) ∈ failures calls → Answers (opened s) l t → exec .matchId s = .next (closed t e))

/-- R162, R167: SKIP with every outcome of every call. -/
def Obligations.SkipFollowsItsRule : Prop :=
  ∀ s : State, s.lockFree = true →
    let calls : List (Call × Reply) := [(.reset, .presence true), (.writeByte s.params.cmdSkipRom, .ok)]
    (∀ t, Answers (opened s) calls t → exec .skip s = .next (closed t .ok)) ∧
    (∀ l e t, (l, e) ∈ failures calls → Answers (opened s) l t → exec .skip s = .next (closed t e))

/-- R163, R167: RESUME with every outcome of every call. -/
def Obligations.ResumeFollowsItsRule : Prop :=
  ∀ s : State, s.lockFree = true →
    let calls : List (Call × Reply) := [(.reset, .presence true), (.writeByte s.params.cmdResume, .ok)]
    (∀ t, Answers (opened s) calls t → exec .resume s = .next (closed t .ok)) ∧
    (∀ l e t, (l, e) ∈ failures calls → Answers (opened s) l t → exec .resume s = .next (closed t e))

/-- R164: RESET_SELECT is MATCH_ID iff `PCOUNT` is greater than one, else SKIP, with the chosen primitive's
calls, errors and completion. -/
def Obligations.ResetSelectChoosesByPeripheralCount : Prop :=
  ∀ s : State,
    (s.pcount.toNat > 1 → exec .resetSelect s = exec .matchId s) ∧
    (s.pcount.toNat ≤ 1 → exec .resetSelect s = exec .skip s) ∧
    (s.lockFree = true → ∀ t, Answers (opened s) (selectCalls s) t →
      exec .resetSelect s = .next (closed t .ok))

/-- A length is within a capacity, which may be unbounded (R8). -/
def Sys2Proof.fits (cap : Option Nat) (n : Nat) : Prop := ∀ c, cap = some c → n ≤ c

/-- R165, R226: WRITE_READ, its blocks within `TX_MAX` and `RX_MAX` (unbounded by default), `tx` being the
`TXLEN` bytes of `TXBUF` from index 0: its two brackets, the select step, the command bytes out, and with `R` the
`RXLEN` response bytes into `RXBUF`, which then reads `bs[k]` at every `k < RXLEN` and as before elsewhere; every
failure closes the brackets that are open and leaves `RXBUF` as it was. -/
def Obligations.WriteReadFollowsItsRule : Prop :=
  ∀ (s : State) (resp : Bool) (tx : List Byte), s.lockFree = true →
    fits s.params.txMax s.txlen → (resp = true → fits s.params.rxMax s.rxlen) →
    tx.length = s.txlen → (∀ k, k < s.txlen → s.txbuf.read? k = tx[k]?) →
    (∀ u t bs v, Answers (opened s).locked (selectCalls s) u →
      Answers u.unlocked [(.writeBlock tx, .ok)] t →
      Answers t [(.readBlock s.rxlen, .bytes bs)] v → resp = true →
      let buf := v.rxbuf.writeBlock 0 bs
      exec (.writeRead resp) s = .next (closed { v with rxbuf := buf } .ok) ∧ bs.length = s.rxlen ∧
        (s.rxbuf.wf = true →
          ∀ k, buf.read? k = if k < s.rxlen then bs[k]? else s.rxbuf.read? k)) ∧
    (∀ u t, Answers (opened s).locked (selectCalls s) u →
      Answers u.unlocked [(.writeBlock tx, .ok)] t → resp = false →
      exec (.writeRead resp) s = .next (closed t .ok)) ∧
    (∀ l e u, (l, e) ∈ failures (selectCalls s) → Answers (opened s).locked l u →
      exec (.writeRead resp) s = .next (closed u.unlocked e)) ∧
    (∀ u t, Answers (opened s).locked (selectCalls s) u →
      Answers u.unlocked [(.writeBlock tx, .fail)] t →
      exec (.writeRead resp) s = .next (closed t .busIoFailure)) ∧
    (∀ u t v, Answers (opened s).locked (selectCalls s) u →
      Answers u.unlocked [(.writeBlock tx, .ok)] t →
      Answers t [(.readBlock s.rxlen, .fail)] v → resp = true →
      exec (.writeRead resp) s = .next (closed v .busIoFailure))

/-- U11 (D19; log entry 5): WRITE_READ with `TXLEN` beyond what was written is a fault, once the select step has
succeeded. -/
def Obligations.WriteReadFaultsOnUnwrittenCommandByte : Prop :=
  ∀ (s u : State) (resp : Bool), s.lockFree = true →
    fits s.params.txMax s.txlen → (resp = true → fits s.params.rxMax s.rxlen) →
    (∃ k, k < s.txlen ∧ s.txbuf.read? k = none) →
    Answers (opened s).locked (selectCalls s) u → exec (.writeRead resp) s = .fault .unwrittenByte

/-- Is the operation one of the six of `41_addressing.md`? -/
def Sys2Proof.isAddressing : Instr → Bool
  | .readId | .matchId | .skip | .resume | .resetSelect | .writeRead _ => true
  | _ => false

/-- R106, R29: what the six addressing operations leave unchanged, completed or still in flight: the host's
registers, the cursor, `COUNT`, the session layer, the pending events and the host's accesses; the identifier
but for READ_ID; every byte of `RXBUF` but for the first `RXLEN` of a WRITE_READ with a response. -/
def Obligations.AddressingFrame : Prop :=
  ∀ (i : Instr) (s t : State), isAddressing i = true → s.rxbuf.wf = true → exec i s = .next t →
    KeepsHostRegisters s t ∧ KeepsCursor s t ∧ t.count = s.count ∧ KeepsSession s t ∧ KeepsPending s t ∧
    NoWarnings t ∧ t.host = s.host ∧ (i ≠ .readId → t.id = s.id) ∧
    ∀ k, ¬(i = .writeRead true ∧ k < s.rxlen) → t.rxbuf.read? k = s.rxbuf.read? k

/-- The six wire command bytes, pairwise distinct as R103 asks. -/
def Sys2Proof.distinctCommands (p : Params) : Prop :=
  [p.cmdSearchRom, p.cmdAlarmSearch, p.cmdReadRom, p.cmdMatchRom, p.cmdSkipRom, p.cmdResume].Nodup

/-- R38, R66, R76, R77, R79, R80 (D26), R160 to R163, with any distinct command bytes (R103): on the reference
environment MATCH_ID leaves exactly the devices with the identifier in `ID` selected and marked, SKIP selects every
device and RESUME the marked ones, whatever mode each was in; READ_ID reads the AND of all identifiers, gated by the
checksum, and changes no mark. The slot order in a byte (the spec's G3) and that a lost match clears the mark (G6) are
PRESUMED in log entry 3; that the devices answer whatever the transport's power is the model's choice, log entry 18. -/
def Obligations.AddressingSelectsDevices : Prop :=
  ∀ (s : State) (more : List Answer),
    s.lockFree = true → distinctCommands s.params → s.bus.devices ≠ [] →
      (s.bus.answers = .wire :: .wire :: .wire :: more →
        (∃ t, exec .matchId s = .next t ∧ t.status.err = .ok ∧ t.bus.devices = s.bus.devices.map fun d =>
          { d with
            st := if d.rom = accOf s.id then { mode := .selected [] 0, rc := true }
              else { mode := .off, rc := false } }) ∧
        (let a := s.bus.devices.foldl (fun a d => a &&& d.rom) (BitVec.allOnes 64)
         let valid := checksum8 s.params (idOf a).toList = 0
         ∃ t, exec .readId s = .next t ∧ t.status.err = (if valid then .ok else .checksumMismatch) ∧
          t.id = (if valid then idOf a else s.id) ∧ t.bus.devices = s.bus.devices.map fun d =>
            { d with st := { mode := .selected [] 0, rc := d.st.rc } })) ∧
      (s.bus.answers = .wire :: .wire :: more →
        (∃ t, exec .skip s = .next t ∧ t.status.err = .ok ∧ t.bus.devices = s.bus.devices.map fun d =>
          { d with st := { mode := .selected [] 0, rc := d.st.rc } }) ∧
        (∃ t, exec .resume s = .next t ∧ t.status.err = .ok ∧ t.bus.devices = s.bus.devices.map fun d =>
          { d with st := { mode := if d.st.rc then .selected [] 0 else .off, rc := d.st.rc } }))

/-! ### Search -/

/-- R130, R131, R134: SEARCH_PASS runs the pass of R131 on the cursor in one bracket: the state the pseudocode
returns, completed `Ok`; where a call of it fails, the state at that call, completed `BusIoFailure`; on a cursor
that is no position and not `Init`, `Misuse` and nothing else. -/
def Obligations.SearchPassFollowsItsPseudocode : Prop :=
  ∀ (s : State) (alarm : Bool) (fam : Byte),
    let scmd := if alarm then s.params.cmdAlarmSearch else s.params.cmdSearchRom
    (s.ld.toNat ≤ 64 → s.lockFree = true →
      (∀ t, onePass scmd (opened s) = .returned t → exec (.searchPass alarm fam) s = .next (closed t .ok)) ∧
      (∀ t, onePass scmd (opened s) = .failed t →
        exec (.searchPass alarm fam) s = .next (closed t .busIoFailure))) ∧
    (s.ld.toNat > 64 → exec (.searchPass alarm fam) s = .next (endedWith s .misuse))

/-- R132, R133: what the pair read at a position does, `(b, c)` with `b` read before: each row of the table; and
the update by which `(1, 1)` ends the pass. -/
def Obligations.PairDecidesTheDirection : Prop :=
  ∀ (s s' : State) (k : List UOp) (pos : Nat) (next : Discrepancy) (b c : Bool),
    s.seq = .passComplement pos next b :: k → s.ask .readBit = some (.bit c, s') →
      let p := BitVec.ofNat 7 pos
      (b = true → c = true → transact s = .moved { s' with seq := .set (.cursor 66) :: k } ∧
        transact { s' with seq := .set (.cursor 66) :: k } = .moved { s' with ld := 66, seq := k }) ∧
      (b = true → c = false → transact s = .moved { s' with seq := .passWrite pos next true :: k }) ∧
      (b = false → c = true → transact s = .moved { s' with seq := .passWrite pos next false :: k }) ∧
      (b = false → c = false → pos > s.ld.toNat →
        transact s = .moved { s' with seq := .passWrite pos p true :: k }) ∧
      (b = false → c = false → pos < s.ld.toNat → s.acc.getLsbD (pos - 1) = true →
        transact s = .moved { s' with seq := .passWrite pos p true :: k }) ∧
      (b = false → c = false → pos < s.ld.toNat → s.acc.getLsbD (pos - 1) = false →
        transact s = .moved { s' with seq := .passWrite pos next false :: k }) ∧
      (b = false → c = false → pos = s.ld.toNat →
        transact s = .moved { s' with seq := .passWrite pos next false :: k })

/-- R135 (a), (b), (c) (derived there from R131): a pass that completed `Ok` leaves `NoDevice`, `LastDevice`, or
a position at which it chose 1; and if not `NoDevice`, it made all 194 calls. -/
def Obligations.PassResultFacts : Prop :=
  ∀ (s t : State) (alarm : Bool) (fam : Byte), s.ld.toNat ≤ 64 →
    exec (.searchPass alarm fam) s = .next t → t.status.busy = false → t.status.err = .ok →
      (t.ld = 66 ∨ t.ld = 65 ∨ (1 ≤ t.ld.toNat ∧ t.ld.toNat ≤ 64 ∧ accBit t.acc t.ld.toNat = true)) ∧
      (t.ld ≠ 66 → t.bus.calls = s.bus.calls + 194)

/-- R270, R274 (derived there from R131): a pass always terminates: with 194 answers to come, whatever they are,
SEARCH_PASS completes, and uses at most 194 of them. -/
def Obligations.PassAlwaysTerminates : Prop :=
  ∀ (s : State) (alarm : Bool) (fam : Byte), s.lockFree = true → 194 ≤ s.bus.answers.length →
    ∃ t, exec (.searchPass alarm fam) s = .next t ∧ t.status.busy = false ∧ t.status.done = true ∧
      t.bus.calls ≤ s.bus.calls + 194

/-- The answers of a pass in which every device agrees at every position on the bits of `a`: presence, the
command byte, and at each position the bit, its complement, and the write. A bit is bit 0 of the byte given (log
entry 13). -/
def Sys2Proof.agreedAnswers (a : Acc) : List Answer :=
  .value [1] :: .value [] :: (List.range 64).flatMap fun n =>
    [.value [(BitVec.ofBool (a.getLsbD n)).setWidth 8], .value [(BitVec.ofBool (!a.getLsbD n)).setWidth 8],
     .value []]

/-- R131, R64 (consequence): a pass in which all agree delivers exactly the bits read, position 1 in bit 0, and
ends `LastDevice`, from every cursor it may start from and whatever the accumulator held. -/
def Obligations.AgreedPassReadsTheIdentifier : Prop :=
  ∀ (s : State) (alarm : Bool) (fam : Byte) (a : Acc) (rest : List Answer),
    s.ld.toNat ≤ 64 → s.lockFree = true → s.bus.answers = agreedAnswers a ++ rest →
      ∃ t, exec (.searchPass alarm fam) s = .next t ∧ t.status.busy = false ∧ t.status.err = .ok ∧
        t.ld = 65 ∧ t.acc = a ∧ t.bus.answers = rest

/-- R136, R137: SEARCH_ALL runs the loop of R136, through any number of passes, each found identifier emitted
and taken: the state the loop returns, completed `Ok`; where a call fails, the state at that call, completed
`BusIoFailure`. -/
def Obligations.SearchAllFollowsItsPseudocode : Prop :=
  ∀ (s : State) (alarm : Bool) (fam : Byte) (n : Nat), s.lockFree = true →
    let scmd := if alarm then s.params.cmdAlarmSearch else s.params.cmdSearchRom
    (∀ t, search scmd .emit n (fresh (opened s)) = .returned t →
      exec (.searchAll alarm fam) s = .next (closed t .ok)) ∧
    (∀ t, search scmd .emit n (fresh (opened s)) = .failed t →
      exec (.searchAll alarm fam) s = .next (closed t .busIoFailure))

/-- R136 (its corner case of zero devices): on an empty bus SEARCH_ALL makes one call, counts 0, emits nothing
and is no error. -/
def Obligations.SearchAllOnAnEmptyBus : Prop :=
  ∀ (s t : State) (alarm : Bool) (fam : Byte), s.lockFree = true →
    Answers (fresh (opened s)) [(.reset, .presence false)] t →
      exec (.searchAll alarm fam) s = .next (closed { t with ld := 66 } .ok) ∧ t.count = 0 ∧ t.acc = 0 ∧
      t.log = .call .reset (.presence false) :: .lock :: s.log

/-- R138: for every value of `FAM` the search operations do what they do for `FAM = 0`. -/
def Obligations.FamilyFilterHasNoEffect : Prop :=
  ∀ (s : State) (alarm : Bool) (fam : Byte),
    exec (.searchPass alarm fam) s = exec (.searchPass alarm 0) s ∧
    exec (.searchAll alarm fam) s = exec (.searchAll alarm 0) s ∧
    exec (.scan alarm fam) s = exec (.scan alarm 0) s

/-- R106, R25, R29: what SEARCH_PASS and SEARCH_ALL leave unchanged, completed or in flight: the host's registers,
the session layer, every byte of `RXBUF`; and SEARCH_PASS the identifier, `COUNT`, the pending events and the
host's accesses. -/
def Obligations.SearchFrame : Prop :=
  ∀ (s t : State) (alarm : Bool) (fam : Byte),
    (exec (.searchPass alarm fam) s = .next t →
      KeepsHostRegisters s t ∧ KeepsSession s t ∧ KeepsRxbuf s t ∧ NoWarnings t ∧ KeepsPending s t ∧
      t.id = s.id ∧ t.count = s.count ∧ t.host = s.host) ∧
    (exec (.searchAll alarm fam) s = .next t →
      KeepsHostRegisters s t ∧ KeepsSession s t ∧ KeepsRxbuf s t ∧ NoWarnings t ∧
      t.status.reportPending = s.status.reportPending)

/-- The identifiers an output found, oldest first. -/
def Sys2Proof.foundIn (l : List Event) : List Identifier :=
  l.reverse.filterMap fun e => match e with | .found i => some i | _ => none

/-- R140 for one device (derived there; the document's "Single-device shortcut"), on the reference environment
of R74 to R78: one pass of 194 calls finds it, whatever its identifier, if it takes part: always in a normal
search, in an alarm search iff it is alarmed (R77, the spec's G4, log entry 3). If it does not, the pass ends
after four calls with nothing found (R139). The model's choice: the devices answer whatever the transport's power
(log entry 18), and among equal command bytes they take the normal search first, then the alarm search (log entry
21). -/
def Obligations.SingleDeviceShortcut : Prop :=
  ∀ (s : State) (alarm : Bool) (fam : Byte) (d : Device) (more : List Answer),
    s.lockFree = true → s.bus.devices = [d] →
    (alarm = true → s.params.cmdAlarmSearch ≠ s.params.cmdSearchRom) →
      (∀ (v : Word) (rest : List HostInput), (alarm = false ∨ d.alarm = true) →
        s.bus.answers = List.replicate 194 .wire ++ more → s.host = .write 0x2C v :: rest → v.getLsbD 0 = true →
        ∃ t l, exec (.searchAll alarm fam) s = .next t ∧ Gained s t l ∧ foundIn l = [idOf d.rom] ∧
          t.status.busy = false ∧ t.status.err = .ok ∧ t.count = 1 ∧ t.ld = 65 ∧ t.acc = d.rom ∧
          t.id = idOf d.rom ∧ t.bus.answers = more ∧ t.host = rest) ∧
      (alarm = true → d.alarm = false → s.bus.answers = List.replicate 4 .wire ++ more →
        ∃ t l, exec (.searchAll alarm fam) s = .next t ∧ Gained s t l ∧ foundIn l = [] ∧
          t.status.busy = false ∧ t.status.err = .ok ∧ t.count = 0 ∧ t.ld = 66 ∧ t.acc = 0 ∧ t.id = s.id ∧
          t.bus.answers = more ∧ t.host = s.host)

/-- T4, from R132 and R140 (derived there): of two devices on the reference bus that differ at position `k` only,
the first pass of an enumeration finds the one with a 1 there and leaves `LD = k`, and the next pass, from that
cursor, finds the other and leaves `LastDevice`. The model's choice: the devices answer whatever the transport's
power (log entry 18), and among equal command bytes they take the normal search first (log entry 21). -/
def Obligations.TwoDevicesAreFoundOneThenZero : Prop :=
  ∀ (s : State) (d0 d1 : Device) (k : Nat) (more : List Answer),
    s.lockFree = true → s.ld = 0 → 1 ≤ k → k ≤ 64 →
    accBit d1.rom k = true → d0.rom = setAccBit d1.rom k false →
    (s.bus.devices = [d0, d1] ∨ s.bus.devices = [d1, d0]) →
    s.bus.answers = List.replicate 388 .wire ++ more →
      ∃ t u, exec (.searchPass false 0) s = .next t ∧ t.status.err = .ok ∧ t.ld.toNat = k ∧ t.acc = d1.rom ∧
        exec (.searchPass false 0) t = .next u ∧ u.status.err = .ok ∧ u.ld = 65 ∧ u.acc = d0.rom ∧
        u.bus.answers = more

/-- The order of discovery of R140: at the first position where they differ, the one found first has a 1. -/
def Sys2Proof.foundBefore (i j : Identifier) : Prop :=
  ∃ k, 1 ≤ k ∧ k ≤ 64 ∧ accBit (accOf i) k = true ∧ accBit (accOf j) k = false ∧
    ∀ p, 1 ≤ p → p < k → accBit (accOf i) p = accBit (accOf j) p

/-- R140 (derived there; the document's "Enumeration completeness" and "Tie-break determinism"): with N devices
that take part, of distinct identifiers, on the reference bus, SEARCH_ALL emits each exactly once, in descending
order, in N passes of 194 calls, and ends `LastDevice` with `COUNT = N`. In a normal search every device takes
part, in an alarm search the alarmed ones (R77, the spec's G4, log entry 3); with devices present and none
taking part, it ends after four calls with nothing found (R139). The model's choice: the devices answer whatever the
transport's power (log entry 18), and among equal command bytes they take the normal search first, then the alarm search
(log entry 21). -/
def Obligations.EnumerationCompleteness : Prop :=
  ∀ (s : State) (alarm : Bool) (fam : Byte) (more : List Answer) (rest : List HostInput),
    s.lockFree = true → (alarm = true → s.params.cmdAlarmSearch ≠ s.params.cmdSearchRom) →
    let ds := s.bus.devices.filter fun d => !alarm || d.alarm
    (ds ≠ [] → (ds.map fun d => d.rom).Nodup → ds.length < 2 ^ 32 →
      s.bus.answers = List.replicate (194 * ds.length) .wire ++ more →
      s.host = List.replicate ds.length (.write 0x2C 1) ++ rest →
      ∃ t l, exec (.searchAll alarm fam) s = .next t ∧ Gained s t l ∧
        (foundIn l).Perm (ds.map fun d => idOf d.rom) ∧ (foundIn l).Pairwise foundBefore ∧
        t.status.busy = false ∧ t.status.err = .ok ∧ t.ld = 65 ∧ t.count.toNat = ds.length ∧
        t.bus.answers = more ∧ t.host = rest) ∧
    (ds = [] → s.bus.devices ≠ [] → s.bus.answers = List.replicate 4 .wire ++ more →
      ∃ t l, exec (.searchAll alarm fam) s = .next t ∧ Gained s t l ∧ foundIn l = [] ∧
        t.status.busy = false ∧ t.status.err = .ok ∧ t.ld = 66 ∧ t.count = 0 ∧ t.bus.answers = more ∧
        t.host = s.host)

/-- R270 (derived there from R131): under arbitrary answers SEARCH_ALL need not end: there is one sequence of
answers whose first `194 n`, for every `n`, give `n` passes that each found an identifier the host has taken,
and leave the loop at its next pass. -/
def Obligations.SearchAllNeedNotEnd : Prop :=
  ∃ f : Nat → Answer, ∀ (s : State) (n : Nat), s.lockFree = true → n < 2 ^ 32 →
    ∃ t, exec (.searchAll false 0)
        { s with
          host := List.replicate n (.write 0x2C 1),
          bus := { s.bus with answers := (List.range (194 * n)).map f } } = .next t ∧
      t.status.busy = true ∧ t.count.toNat = n ∧ t.host = [] ∧ t.bus.answers = [] ∧ t.ld ≠ 65 ∧
      t.seq = [.passReset s.params.cmdSearchRom (some .emit), .unlock, .finish .ok]

/-! ### Session -/

/-- R191, R192: ACQUIRE: `Misuse` outside an Idle session; in one, power, settle, reset in one bracket, the
presence answer ignored, then `QUIRK` clear and the session Acquired; where a call fails, the lock released,
nothing else done, and the session still Idle with `QUIRK` as it was. -/
def Obligations.AcquireFollowsItsRule : Prop :=
  ∀ s : State,
    (s.sess ≠ .idle → exec .acquire s = .next (endedWith s .misuse)) ∧
    (s.lockFree = true → s.sess = .idle →
      (∀ u, Answers (opened s) [(.resumePower, .ok)] u →
        (∀ p t, Answers (u.record (.settle s.params.tSettle)) [(.reset, .presence p)] t →
          exec .acquire s = .next ({ t.unlocked with quirk := false, sess := .acquired }.complete .ok)) ∧
        (∀ t, Answers (u.record (.settle s.params.tSettle)) [(.reset, .fail)] t →
          exec .acquire s = .next (closed t .busIoFailure) ∧ (closed t .busIoFailure).sess = .idle ∧
            (closed t .busIoFailure).quirk = s.quirk)) ∧
      (∀ t, Answers (opened s) [(.resumePower, .fail)] t →
        exec .acquire s = .next (closed t .busIoFailure) ∧ (closed t .busIoFailure).sess = .idle ∧
          (closed t .busIoFailure).quirk = s.quirk))

/-- R193 with R194 and R195: RELEASE: `NotAcquired` outside an Acquired session; in one, the quirk step if
`QUIRK`, its failures warnings only; the power suspend; the unlock; and the session Idle with `QUIRK` clear,
whether or not the suspend failed, which is the only hard error. -/
def Obligations.ReleaseFollowsItsRule : Prop :=
  ∀ s : State,
    (s.sess ≠ .acquired → exec .release s = .next (endedWith s .notAcquired)) ∧
    (s.lockFree = true → s.sess = .acquired →
      ∀ (u t : State) (r : Reply), quirkPart (opened { s with sess := .released }) = some u →
        u.ask .suspendPower = some (r, t) →
        exec .release s = .next (releaseEnd t (if r = .fail then .busIoFailure else .ok)))

/-- R200 (D15), its session checks: SCAN and RELEASE without an Acquired session are `NotAcquired`, ACQUIRE
outside Idle is `Misuse`; no lock is taken, no bus call is made and no state changes but `STATUS`. -/
def Obligations.SessionMisuseIsRefusedWithoutEffect : Prop :=
  ∀ (s : State) (alarm : Bool) (fam : Byte),
    (s.sess ≠ .acquired → exec (.scan alarm fam) s = .next (endedWith s .notAcquired) ∧
      exec .release s = .next (endedWith s .notAcquired)) ∧
    (s.sess ≠ .idle → exec .acquire s = .next (endedWith s .misuse))

/-- R196 (with R197 to R199): SCAN: `NotAcquired` outside an Acquired session; in one, the loop of R136 with the
internal collector, through any number of passes; the bracket closed; one report event per collected identifier,
in order, whether or not the search failed; then the record empty and the session Acquired, completed with the
search's error, if any. -/
def Obligations.ScanFollowsItsPseudocode : Prop :=
  ∀ (s : State) (alarm : Bool) (fam : Byte) (n : Nat),
    let scmd := if alarm then s.params.cmdAlarmSearch else s.params.cmdSearchRom
    let s0 := fresh (opened { s with sess := .scanning, quirk := false, scanrec := [] })
    (s.sess ≠ .acquired → exec (.scan alarm fam) s = .next (endedWith s .notAcquired)) ∧
    (s.lockFree = true → s.sess = .acquired →
      (∀ t u, search scmd .collect n s0 = .returned t → reported t.scanrec t.unlocked = some u →
        exec (.scan alarm fam) s = .next (scanEnd u .ok)) ∧
      (∀ t u, search scmd .collect n s0 = .failed t → reported t.scanrec t.unlocked = some u →
        exec (.scan alarm fam) s = .next (scanEnd u .busIoFailure)))

/-- The identifiers an output reported, oldest first. -/
def Sys2Proof.reportedIn (l : List Event) : List Identifier :=
  l.reverse.filterMap fun e => match e with | .report i => some i | _ => none

/-- R197, R198, R199: over a SCAN that ran to its end, with or without an error: as many report events as `COUNT`
says; `QUIRK` is 1 iff a reported identifier has the quirk family byte; the scan record is empty and the session
Acquired. -/
def Obligations.ScanReportsAllItCounted : Prop :=
  ∀ (s t : State) (alarm : Bool) (fam : Byte) (l : List Event), s.sess = .acquired →
    exec (.scan alarm fam) s = .next t → t.status.busy = false → Gained s t l →
      (reportedIn l).length = t.count.toNat ∧
      t.quirk = (reportedIn l).any (fun i => i.family == s.params.quirkFamily) ∧
      t.scanrec = [] ∧ t.sess = .acquired ∧ foundIn l = []

/-- R106: what the session operations leave unchanged, completed or in flight: the host's registers and every byte
of `RXBUF`; ACQUIRE and RELEASE also the cursor, the identifier, `COUNT`, the scan record, the pending events and
the host's accesses; and SCAN the pending found event. -/
def Obligations.SessionFrame : Prop :=
  ∀ (s t : State),
    (∀ i : Instr, i = .acquire ∨ i = .release → exec i s = .next t →
      KeepsHostRegisters s t ∧ KeepsRxbuf s t ∧ KeepsCursor s t ∧ t.id = s.id ∧ t.count = s.count ∧
      t.scanrec = s.scanrec ∧ KeepsPending s t ∧ t.host = s.host ∧ t.status.wCallback = false ∧
      (i = .acquire → t.status.wQuirk = false)) ∧
    (∀ alarm fam, exec (.scan alarm fam) s = .next t →
      KeepsHostRegisters s t ∧ KeepsRxbuf s t ∧ t.status.wQuirk = false ∧
      t.status.foundPending = s.status.foundPending)

/-- R190, R230: an operation changes `SESS` only along the state machine: ACQUIRE from Idle to Acquired, when it
completes `Ok`; SCAN from Acquired to Scanning while in flight, back to Acquired at its end; RELEASE from Acquired
to Released while in flight, to Idle at its end; no other operation changes it. -/
def Obligations.SessionTransitions : Prop :=
  ∀ (i : Instr) (s t : State), exec i s = .next t →
    match i with
    | .acquire =>
      t.sess = s.sess ∨
        (s.sess = .idle ∧ t.sess = .acquired ∧ t.status.busy = false ∧ t.status.err = .ok)
    | .scan _ _ =>
      if s.sess = .acquired then t.sess = if t.status.busy then .scanning else .acquired
      else t.sess = s.sess
    | .release =>
      if s.sess = .acquired then t.sess = if t.status.busy then .released else .idle
      else t.sess = s.sess
    | _ => t.sess = s.sess

/-! ### Errors -/

/-- The hard errors each operation can complete with (R220, R221), `Ok` among them. -/
def Sys2Proof.possibleErrors : Instr → List Err
  | .searchPass _ _ => [.ok, .misuse, .busIoFailure]
  | .searchAll _ _ => [.ok, .busIoFailure]
  | .readId => [.ok, .noPresence, .busIoFailure, .checksumMismatch]
  | .matchId | .skip | .resume | .resetSelect | .writeRead _ => [.ok, .noPresence, .busIoFailure]
  | .acquire => [.ok, .misuse, .busIoFailure]
  | .release => [.ok, .notAcquired, .busIoFailure]
  | .scan _ _ => [.ok, .notAcquired, .busIoFailure]

/-- R221 (which errors, not their order), R228: a completed operation has `DONE` set and an error of its list. -/
def Obligations.ErrorsByOperation : Prop :=
  ∀ (i : Instr) (s t : State), exec i s = .next t → t.status.busy = false →
    t.status.done = true ∧ t.status.err ∈ possibleErrors i

/-- R223, R28: `W_QUIRK` is raised by RELEASE only and `W_CALLBACK` by SCAN only; each is set iff a warning of its
kind is in the operation's output. -/
def Obligations.WarningsOnlyFromReleaseAndScan : Prop :=
  ∀ (i : Instr) (s t : State) (l : List Event), exec i s = .next t → Gained s t l →
    (t.status.wQuirk = true → i = .release) ∧ (t.status.wCallback = true → ∃ a f, i = .scan a f) ∧
    (t.status.wQuirk = true ↔ Event.warn .quirk ∈ l) ∧ (t.status.wCallback = true ↔ Event.warn .callback ∈ l)

/-- R109, R28: `BUSY` is 1 while and only while an operation is in flight, the sequencer having steps still to make,
and `DONE` and `ERR` are then clear. -/
def Obligations.StatusWhileInFlight : Prop :=
  ∀ (i : Instr) (s t : State), exec i s = .next t →
    t.status.busy = !t.seq.isEmpty ∧ (t.status.busy = true → t.status.done = false ∧ t.status.err = .ok)

/-! ### Host reads, resumption, the checksum, capacities -/

/-- What a read of each readable word register of R35 gives. That bits 31:9 of `TXLEN` and `RXLEN` read 0, and that a
length above 511, which no host write gives, reads in its low nine bits, is the model's choice (log entry 19). -/
def Sys2Proof.registerValues (s : State) : List (Nat × Word) :=
  [(0x04, statusWord s.status s.quirk s.sess), (0x08, s.ld.setWidth 32), (0x0C, s.acc.extractLsb' 0 32),
   (0x10, s.acc.extractLsb' 32 32), (0x14, s.id.serial3 ++ s.id.serial2 ++ s.id.serial1 ++ s.id.family),
   (0x18, s.id.checksum ++ s.id.serial6 ++ s.id.serial5 ++ s.id.serial4), (0x1C, s.count), (0x20, s.pcount),
   (0x24, BitVec.ofNat 32 (s.txlen % 512)), (0x28, BitVec.ofNat 32 (s.rxlen % 512))]

/-- R35 (D3): a host read while idle puts the value of its register, or of a byte of a buffer that has one, in the
output and changes nothing else. The model's choice, on which R35 is silent (log entry 19): bits 31:9 of `TXLEN` and
`RXLEN` read 0, and of a length above 511 the low nine bits are read. -/
def Obligations.HostReadWhileIdle : Prop :=
  ∀ (s : State) (rest : List HostInput), s.status.busy = false →
    (∀ off v, s.host = .read off :: rest → (off, v) ∈ registerValues s →
      step s = .next { s with host := rest, log := .hostRead off v :: s.log }) ∧
    (∀ k b, s.host = .readByte (0x100 + k) :: rest → k < 256 → s.txbuf.read? k = some b →
      step s = .next { s with host := rest, log := .hostRead (0x100 + k) (b.setWidth 32) :: s.log }) ∧
    (∀ k b, s.host = .readByte (0x200 + k) :: rest → k < 256 → s.rxbuf.read? k = some b →
      step s = .next { s with host := rest, log := .hostRead (0x200 + k) (b.setWidth 32) :: s.log })

/-- What the outside world can add while an operation waits: answers, the lock, host accesses (R62, R137). -/
def Sys2Proof.Furthers (f : State → State) : Prop :=
  (∃ l, f = fun s => s.supply l) ∨ f = State.otherUnlocks ∨ ∃ l, f = fun s => s.queueHost l

/-- R62, R69, R137: an operation that waits goes on as if what it waited for had been there from its issue:
where it can go on, the step gives what the issuing step would have given with it; where it still waits, it is
where that step would have left it. The same holds of a step that resumed it. That one step runs as far as it
can is the model's form (log entry 7). -/
def Obligations.WaitingOperationIsResumed : Prop :=
  ∀ f : State → State, Furthers f →
    (∀ (i : Instr) (s t : State), exec i s = .next t → t.status.busy = true →
      (transact (f t) ≠ .waiting → step (f t) = exec i (f s)) ∧
      (transact (f t) = .waiting → exec i (f s) = .next (f t))) ∧
    (∀ s t : State, s.status.busy = true → transact s ≠ .waiting → step s = .next t → t.status.busy = true →
      (transact (f t) ≠ .waiting → step (f t) = step (f s)) ∧
      (transact (f t) = .waiting → step (f s) = .next (f t)))

/-- R82 (the function is the spec's G2, log entry 3): the reference checksum of any bytes followed by their
checksum is 0, and its values on the vectors V7, V10 and V11. -/
def Obligations.ReferenceChecksum : Prop :=
  (∀ (p : Params) (bs : List Byte), p.checksum = .reference → checksum8 p (bs ++ [checksum8 p bs]) = 0) ∧
  crc8 [0x28, 1, 2, 3, 4, 5, 6] = 0x9E ∧ crc8 (List.replicate 8 0xFF) = 0xC9 ∧ crc8 [1] = 0x5E ∧ crc8 [0x80] = 0x8C

/-- R8, R31, U16 (D18, D24): the collector appends while the scan record has room, which it always has without a
finite `SCAN_CAP`, and is refused beyond it; a WRITE_READ block longer than a finite `TX_MAX` or `RX_MAX` is
refused (the model's choice, log entry 11). -/
def Obligations.Capacities : Prop :=
  ∀ (s : State) (k : List UOp),
    (s.seq = .append :: k →
      (fits s.params.scanCap (s.scanrec.length + 1) →
        transact s = .moved { s with seq := k, scanrec := s.scanrec ++ [s.id] }) ∧
      (¬fits s.params.scanCap (s.scanrec.length + 1) → transact s = .refused .scanRecordFull)) ∧
    ∀ resp : Bool,
      (¬fits s.params.txMax s.txlen → exec (.writeRead resp) s = .refused .commandTooLong) ∧
      (fits s.params.txMax s.txlen → ¬fits s.params.rxMax s.rxlen →
        exec (.writeRead true) s = .refused .responseTooLong)

end
end

