-- ==== Sys2Proof/Laws/Buffer.lean ====
section
/-! SUPPORT. The laws of the byte buffers: a read after a write, every other byte alone, and the canonical
form kept by every operation. -/

namespace Sys2Proof.Machine

theorem Buffer.above_iff {n : Nat} {buf : Buffer} : Buffer.above n buf = true ↔ ∀ c ∈ buf, n < c.1 := by
  simp [Buffer.above]

theorem Buffer.above_write {n k : Nat} {b : Byte} {buf : Buffer} (h : Buffer.above n buf = true) (hk : n < k) :
    Buffer.above n (buf.write k b) = true := by
  induction buf with
  | nil => simp [Buffer.write, Buffer.above, hk]
  | cons c rest ih =>
    obtain ⟨i, v⟩ := c
    simp only [Buffer.above_iff] at h ih ⊢
    simp only [Buffer.write]
    split
    · intro c hc
      rcases List.mem_cons.1 hc with rfl | hc
      · exact hk
      · exact h c hc
    · split
      · intro c hc
        rcases List.mem_cons.1 hc with rfl | hc
        · exact hk
        · exact h c (List.mem_cons_of_mem _ hc)
      · intro c hc
        rcases List.mem_cons.1 hc with rfl | hc
        · exact h _ List.mem_cons_self
        · exact ih (fun c hc => h c (List.mem_cons_of_mem _ hc)) c hc

theorem Buffer.above_trans {m n : Nat} {buf : Buffer} (h : Buffer.above n buf = true) (hmn : m ≤ n) :
    Buffer.above m buf = true := by
  rw [Buffer.above_iff] at h ⊢
  exact fun c hc => lt_of_le_of_lt hmn (h c hc)

/-- A write keeps the canonical form. -/
theorem Buffer.write_wf {buf : Buffer} (k : Nat) (b : Byte) (h : buf.wf = true) : (buf.write k b).wf = true := by
  induction buf with
  | nil => rfl
  | cons c rest ih =>
    obtain ⟨i, v⟩ := c
    simp only [Buffer.wf, Bool.and_eq_true] at h
    simp only [Buffer.write]
    split
    · next hk =>
      simp only [Buffer.wf, Bool.and_eq_true]
      refine ⟨?_, h⟩
      have := Buffer.above_trans h.1 (le_of_lt hk)
      simpa [Buffer.above, hk] using this
    · next hk =>
      split
      · next hik => subst hik; simpa [Buffer.wf] using h
      · next hik =>
        simp only [Buffer.wf, Bool.and_eq_true]
        exact ⟨Buffer.above_write h.1 (by omega), ih h.2⟩

/-- A block write keeps the canonical form. -/
theorem Buffer.writeBlock_wf {buf : Buffer} (k : Nat) (bs : List Byte) (h : buf.wf = true) :
    (buf.writeBlock k bs).wf = true := by
  induction bs generalizing buf k with
  | nil => exact h
  | cons b bs ih => exact ih _ (Buffer.write_wf k b h)

/-- A read after a write of the same byte gives the byte written. -/
@[simp] theorem Buffer.read_write_same (buf : Buffer) (k : Nat) (b : Byte) : (buf.write k b).read? k = some b := by
  induction buf with
  | nil => simp [Buffer.write, Buffer.read?]
  | cons c rest ih =>
    obtain ⟨i, v⟩ := c
    simp only [Buffer.write]
    split
    · simp [Buffer.read?]
    · split
      · simp [Buffer.read?]
      · next h1 h2 =>
        rw [Buffer.read?, if_neg (by omega), if_neg (by omega)]
        exact ih

theorem Buffer.read_of_above {n k : Nat} {buf : Buffer} (h : Buffer.above n buf = true) (hk : k ≤ n) :
    buf.read? k = none := by
  cases buf with
  | nil => rfl
  | cons c rest =>
    obtain ⟨i, v⟩ := c
    have hi : n < i := Buffer.above_iff.1 h (i, v) List.mem_cons_self
    rw [Buffer.read?, if_neg (by omega), if_pos (by omega)]

/-- A write leaves every other byte alone. -/
theorem Buffer.read_write_other {buf : Buffer} (h : buf.wf = true) {k j : Nat} (hj : j ≠ k) (b : Byte) :
    (buf.write k b).read? j = buf.read? j := by
  induction buf with
  | nil => simp [Buffer.write, Buffer.read?, Ne.symm hj]
  | cons c rest ih =>
    obtain ⟨i, v⟩ := c
    simp only [Buffer.wf, Bool.and_eq_true] at h
    simp only [Buffer.write]
    split
    · next hk =>
      rw [Buffer.read?, if_neg (Ne.symm hj)]
      split
      · next hjk => rw [Buffer.read?, if_neg (by omega), if_pos (by omega)]
      · rfl
    · split
      · next hik =>
        subst hik
        rw [Buffer.read?, Buffer.read?, if_neg (Ne.symm hj), if_neg (Ne.symm hj)]
      · rw [Buffer.read?, Buffer.read?, ih h.2]

/-- A block write writes its bytes and leaves every other byte alone. -/
theorem Buffer.read_writeBlock {buf : Buffer} (h : buf.wf = true) (k j : Nat) (bs : List Byte) :
    (buf.writeBlock k bs).read? j =
      if k ≤ j ∧ j < k + bs.length then bs[j - k]? else buf.read? j := by
  induction bs generalizing buf k with
  | nil =>
    rw [if_neg (by simp only [List.length_nil]; omega)]
    rfl
  | cons b bs ih =>
    have hw := ih (Buffer.write_wf k b h) (k + 1)
    refine hw.trans ?_
    simp only [List.length_cons]
    by_cases hj : j = k
    · subst hj
      rw [if_neg (by omega), if_pos (by omega), Buffer.read_write_same]
      simp
    · rw [Buffer.read_write_other h hj]
      by_cases hr : k + 1 ≤ j ∧ j < k + 1 + bs.length
      · rw [if_pos hr, if_pos (by omega), show j - k = (j - (k + 1)) + 1 by omega, List.getElem?_cons_succ]
      · rw [if_neg hr, if_neg (by omega)]

/-- A block is read iff each of its bytes has a value, and it is those bytes in order. -/
theorem Buffer.block?_eq_some_iff {buf : Buffer} {k n : Nat} {l : List Byte} :
    buf.block? k n = some l ↔ l.length = n ∧ ∀ j, j < n → buf.read? (k + j) = l[j]? := by
  induction n generalizing k l with
  | zero => cases l <;> simp [Buffer.block?]
  | succ n ih =>
    constructor
    · intro h
      rw [Buffer.block?] at h
      split at h
      · cases h
      · next b hb =>
        obtain ⟨l, hl, rfl⟩ := Option.map_eq_some_iff.1 h
        obtain ⟨hlen, hrd⟩ := ih.1 hl
        refine ⟨by rw [List.length_cons, hlen], fun j hj => ?_⟩
        cases j with
        | zero => exact hb
        | succ j =>
          rw [List.getElem?_cons_succ, ← hrd j (by omega)]
          congr 1
          omega
    · rintro ⟨hlen, hrd⟩
      obtain _ | ⟨b, l⟩ := l
      · cases hlen
      · have hl : buf.block? (k + 1) n = some l := ih.2 ⟨by simpa using hlen, fun j hj => by
          rw [show k + 1 + j = k + (j + 1) by omega, hrd (j + 1) (by omega), List.getElem?_cons_succ]⟩
        have hb : buf.read? k = some b := hrd 0 (by omega)
        simp [Buffer.block?, hb, hl]

/-- A block is not read iff one of its bytes has no value. -/
theorem Buffer.block?_eq_none_iff {buf : Buffer} {k n : Nat} :
    buf.block? k n = none ↔ ∃ j, j < n ∧ buf.read? (k + j) = none := by
  induction n generalizing k with
  | zero => simp [Buffer.block?]
  | succ n ih =>
    rw [Buffer.block?]
    split
    · next hb => exact iff_of_true rfl ⟨0, by omega, hb⟩
    · next b hb =>
      rw [Option.map_eq_none_iff, ih]
      constructor
      · rintro ⟨j, hj, h⟩
        exact ⟨j + 1, by omega, by rwa [show k + (j + 1) = k + 1 + j by omega]⟩
      · rintro ⟨j, hj, h⟩
        cases j with
        | zero => rw [Nat.add_zero, hb] at h; cases h
        | succ j => exact ⟨j, by omega, by rwa [show k + 1 + j = k + (j + 1) by omega]⟩

/-- The buffers are in canonical form at reset. -/
theorem Buffer.reset_wf : State.reset.txbuf.wf = true ∧ State.reset.rxbuf.wf = true := ⟨rfl, rfl⟩

end Sys2Proof.Machine
end

