-- ==== Sys2Proof/Laws/Decode.lean ====
section
/-! SUPPORT. The command word against its fields: cutting and putting together are inverse. -/

namespace Sys2Proof

/-- Every bit of a word put together from fields. -/
theorem CmdFields.toWord_getLsbD (f : CmdFields) (i : Nat) :
    f.toWord.getLsbD i =
      if i < 4 then f.op.getLsbD i
      else if i = 4 then f.a
      else if i = 5 then f.r
      else if i < 8 then f.reserved.getLsbD (i - 6)
      else if i < 16 then f.fam.getLsbD (i - 8)
      else f.high.getLsbD (i - 16) := by
  obtain ⟨op, a, r, reserved, fam, high⟩ := f
  refine (BitVec.getLsbD_append (x := high ++ fam ++ reserved ++ BitVec.ofBool r ++ BitVec.ofBool a)).trans ?_
  simp only [BitVec.getLsbD_append, BitVec.getLsbD_ofBool]
  by_cases h1 : i < 4
  · simp [h1]
  by_cases h2 : i = 4
  · subst h2; simp
  by_cases h3 : i = 5
  · subst h3; simp
  by_cases h4 : i < 8
  · simp [h1, h2, h3, h4, show ¬i - 4 < 1 by omega, show ¬i - 4 - 1 < 1 by omega,
      show i - 4 - 1 - 1 = i - 6 by omega]
    omega
  by_cases h5 : i < 16
  · simp [h1, h2, h3, h4, h5, show ¬i - 4 < 1 by omega, show ¬i - 4 - 1 < 1 by omega,
      show ¬i - 4 - 1 - 1 < 2 by omega, show i - 4 - 1 - 1 - 2 = i - 8 by omega]
    omega
  · simp [h1, h2, h3, h4, h5, show ¬i - 4 < 1 by omega, show ¬i - 4 - 1 < 1 by omega,
      show ¬i - 4 - 1 - 1 < 2 by omega, show ¬i - 4 - 1 - 1 - 2 < 8 by omega,
      show i - 4 - 1 - 1 - 2 - 8 = i - 16 by omega]

/-- The fields cut from a word put together from fields are those fields. -/
theorem CmdFields.ofWord_toWord (f : CmdFields) : CmdFields.ofWord f.toWord = f := by
  rcases hf : f with ⟨op, a, r, reserved, fam, high⟩
  simp only [← hf, CmdFields.ofWord]
  have key : ∀ start len i, i < len →
      (f.toWord.extractLsb' start len).getLsbD i = f.toWord.getLsbD (start + i) :=
    fun start len i h => by simp [h]
  have e1 : f.toWord.extractLsb' 0 4 = f.op := by
    apply BitVec.eq_of_getLsbD_eq
    intro i hi
    rw [key _ _ _ hi, CmdFields.toWord_getLsbD]
    simp [hi]
  have e2 : f.toWord.extractLsb' 6 2 = f.reserved := by
    apply BitVec.eq_of_getLsbD_eq
    intro i hi
    rw [key _ _ _ hi, CmdFields.toWord_getLsbD]
    simp [show ¬6 + i < 4 by omega, show ¬6 + i = 4 by omega, show ¬6 + i = 5 by omega, show 6 + i < 8 by omega]
  have e3 : f.toWord.extractLsb' 8 8 = f.fam := by
    apply BitVec.eq_of_getLsbD_eq
    intro i hi
    rw [key _ _ _ hi, CmdFields.toWord_getLsbD]
    simp [show ¬8 + i < 4 by omega, show ¬8 + i = 4 by omega, show ¬8 + i = 5 by omega,
      show 8 + i < 16 by omega]
  have e4 : f.toWord.extractLsb' 16 16 = f.high := by
    apply BitVec.eq_of_getLsbD_eq
    intro i hi
    rw [key _ _ _ hi, CmdFields.toWord_getLsbD]
    simp [show ¬16 + i < 4 by omega, show ¬16 + i = 4 by omega, show ¬16 + i = 5 by omega,
      show ¬16 + i < 8 by omega]
  have e5 : f.toWord.getLsbD 4 = f.a := CmdFields.toWord_getLsbD f 4
  have e6 : f.toWord.getLsbD 5 = f.r := CmdFields.toWord_getLsbD f 5
  rw [e1, e2, e3, e4, e5, e6]

/-- Legal fields name an operation. -/
theorem CmdFields.instr_of_legal {f : CmdFields} (h : f.illegal = none) : f.instr.isSome = true := by
  have hop : opDefined f.op = true := by
    rcases hd : opDefined f.op with _ | _
    · simp only [CmdFields.illegal, hd, Bool.not_false, if_true] at h
      split at h <;> cases h
    · rfl
  simp only [opDefined, Bool.and_eq_true, decide_eq_true_eq] at hop
  unfold CmdFields.instr
  split
  case h_12 => exfalso; simp_all; omega
  all_goals rfl

end Sys2Proof
end

