-- ==== Sys2Proof/Laws/State.lean ====
section
/-! SUPPORT. What each named update of the state leaves and what it writes: one lemma per field, true by rfl,
so that no proof unfolds a record update. -/

namespace Sys2Proof.Machine

section
variable (s : State) (k : List UOp)
@[simp] theorem State.goto_ld : (s.goto k).ld = s.ld := rfl
@[simp] theorem State.goto_acc : (s.goto k).acc = s.acc := rfl
@[simp] theorem State.goto_id : (s.goto k).id = s.id := rfl
@[simp] theorem State.goto_count : (s.goto k).count = s.count := rfl
@[simp] theorem State.goto_pcount : (s.goto k).pcount = s.pcount := rfl
@[simp] theorem State.goto_txlen : (s.goto k).txlen = s.txlen := rfl
@[simp] theorem State.goto_txbuf : (s.goto k).txbuf = s.txbuf := rfl
@[simp] theorem State.goto_rxlen : (s.goto k).rxlen = s.rxlen := rfl
@[simp] theorem State.goto_rxbuf : (s.goto k).rxbuf = s.rxbuf := rfl
@[simp] theorem State.goto_status : (s.goto k).status = s.status := rfl
@[simp] theorem State.goto_sess : (s.goto k).sess = s.sess := rfl
@[simp] theorem State.goto_quirk : (s.goto k).quirk = s.quirk := rfl
@[simp] theorem State.goto_scanrec : (s.goto k).scanrec = s.scanrec := rfl
@[simp] theorem State.goto_seq : (s.goto k).seq = k := rfl
@[simp] theorem State.goto_lockDepth : (s.goto k).lockDepth = s.lockDepth := rfl
@[simp] theorem State.goto_params : (s.goto k).params = s.params := rfl
@[simp] theorem State.goto_host : (s.goto k).host = s.host := rfl
@[simp] theorem State.goto_bus : (s.goto k).bus = s.bus := rfl
@[simp] theorem State.goto_log : (s.goto k).log = s.log := rfl
end

section
variable (s : State) (e : Event)
@[simp] theorem State.record_ld : (s.record e).ld = s.ld := rfl
@[simp] theorem State.record_acc : (s.record e).acc = s.acc := rfl
@[simp] theorem State.record_id : (s.record e).id = s.id := rfl
@[simp] theorem State.record_count : (s.record e).count = s.count := rfl
@[simp] theorem State.record_pcount : (s.record e).pcount = s.pcount := rfl
@[simp] theorem State.record_txlen : (s.record e).txlen = s.txlen := rfl
@[simp] theorem State.record_txbuf : (s.record e).txbuf = s.txbuf := rfl
@[simp] theorem State.record_rxlen : (s.record e).rxlen = s.rxlen := rfl
@[simp] theorem State.record_rxbuf : (s.record e).rxbuf = s.rxbuf := rfl
@[simp] theorem State.record_status : (s.record e).status = s.status := rfl
@[simp] theorem State.record_sess : (s.record e).sess = s.sess := rfl
@[simp] theorem State.record_quirk : (s.record e).quirk = s.quirk := rfl
@[simp] theorem State.record_scanrec : (s.record e).scanrec = s.scanrec := rfl
@[simp] theorem State.record_seq : (s.record e).seq = s.seq := rfl
@[simp] theorem State.record_lockDepth : (s.record e).lockDepth = s.lockDepth := rfl
@[simp] theorem State.record_params : (s.record e).params = s.params := rfl
@[simp] theorem State.record_host : (s.record e).host = s.host := rfl
@[simp] theorem State.record_bus : (s.record e).bus = s.bus := rfl
@[simp] theorem State.record_log : (s.record e).log = e :: s.log := rfl
end

section
variable (s : State)
@[simp] theorem State.locked_ld : (s.locked).ld = s.ld := rfl
@[simp] theorem State.locked_acc : (s.locked).acc = s.acc := rfl
@[simp] theorem State.locked_id : (s.locked).id = s.id := rfl
@[simp] theorem State.locked_count : (s.locked).count = s.count := rfl
@[simp] theorem State.locked_pcount : (s.locked).pcount = s.pcount := rfl
@[simp] theorem State.locked_txlen : (s.locked).txlen = s.txlen := rfl
@[simp] theorem State.locked_txbuf : (s.locked).txbuf = s.txbuf := rfl
@[simp] theorem State.locked_rxlen : (s.locked).rxlen = s.rxlen := rfl
@[simp] theorem State.locked_rxbuf : (s.locked).rxbuf = s.rxbuf := rfl
@[simp] theorem State.locked_status : (s.locked).status = s.status := rfl
@[simp] theorem State.locked_sess : (s.locked).sess = s.sess := rfl
@[simp] theorem State.locked_quirk : (s.locked).quirk = s.quirk := rfl
@[simp] theorem State.locked_scanrec : (s.locked).scanrec = s.scanrec := rfl
@[simp] theorem State.locked_seq : (s.locked).seq = s.seq := rfl
@[simp] theorem State.locked_lockDepth : (s.locked).lockDepth = s.lockDepth + 1 := rfl
@[simp] theorem State.locked_params : (s.locked).params = s.params := rfl
@[simp] theorem State.locked_host : (s.locked).host = s.host := rfl
@[simp] theorem State.locked_bus : (s.locked).bus = s.bus := rfl
@[simp] theorem State.locked_log : (s.locked).log = .lock :: s.log := rfl
end

section
variable (s : State)
@[simp] theorem State.unlocked_ld : (s.unlocked).ld = s.ld := rfl
@[simp] theorem State.unlocked_acc : (s.unlocked).acc = s.acc := rfl
@[simp] theorem State.unlocked_id : (s.unlocked).id = s.id := rfl
@[simp] theorem State.unlocked_count : (s.unlocked).count = s.count := rfl
@[simp] theorem State.unlocked_pcount : (s.unlocked).pcount = s.pcount := rfl
@[simp] theorem State.unlocked_txlen : (s.unlocked).txlen = s.txlen := rfl
@[simp] theorem State.unlocked_txbuf : (s.unlocked).txbuf = s.txbuf := rfl
@[simp] theorem State.unlocked_rxlen : (s.unlocked).rxlen = s.rxlen := rfl
@[simp] theorem State.unlocked_rxbuf : (s.unlocked).rxbuf = s.rxbuf := rfl
@[simp] theorem State.unlocked_status : (s.unlocked).status = s.status := rfl
@[simp] theorem State.unlocked_sess : (s.unlocked).sess = s.sess := rfl
@[simp] theorem State.unlocked_quirk : (s.unlocked).quirk = s.quirk := rfl
@[simp] theorem State.unlocked_scanrec : (s.unlocked).scanrec = s.scanrec := rfl
@[simp] theorem State.unlocked_seq : (s.unlocked).seq = s.seq := rfl
@[simp] theorem State.unlocked_lockDepth : (s.unlocked).lockDepth = s.lockDepth - 1 := rfl
@[simp] theorem State.unlocked_params : (s.unlocked).params = s.params := rfl
@[simp] theorem State.unlocked_host : (s.unlocked).host = s.host := rfl
@[simp] theorem State.unlocked_bus : (s.unlocked).bus = s.bus := rfl
@[simp] theorem State.unlocked_log : (s.unlocked).log = .unlock :: s.log := rfl
end

section
variable (s : State) (w : Warning)
@[simp] theorem State.warn_ld : (s.warn w).ld = s.ld := rfl
@[simp] theorem State.warn_acc : (s.warn w).acc = s.acc := rfl
@[simp] theorem State.warn_id : (s.warn w).id = s.id := rfl
@[simp] theorem State.warn_count : (s.warn w).count = s.count := rfl
@[simp] theorem State.warn_pcount : (s.warn w).pcount = s.pcount := rfl
@[simp] theorem State.warn_txlen : (s.warn w).txlen = s.txlen := rfl
@[simp] theorem State.warn_txbuf : (s.warn w).txbuf = s.txbuf := rfl
@[simp] theorem State.warn_rxlen : (s.warn w).rxlen = s.rxlen := rfl
@[simp] theorem State.warn_rxbuf : (s.warn w).rxbuf = s.rxbuf := rfl
@[simp] theorem State.warn_status : (s.warn w).status = s.status.warned w := rfl
@[simp] theorem State.warn_sess : (s.warn w).sess = s.sess := rfl
@[simp] theorem State.warn_quirk : (s.warn w).quirk = s.quirk := rfl
@[simp] theorem State.warn_scanrec : (s.warn w).scanrec = s.scanrec := rfl
@[simp] theorem State.warn_seq : (s.warn w).seq = s.seq := rfl
@[simp] theorem State.warn_lockDepth : (s.warn w).lockDepth = s.lockDepth := rfl
@[simp] theorem State.warn_params : (s.warn w).params = s.params := rfl
@[simp] theorem State.warn_host : (s.warn w).host = s.host := rfl
@[simp] theorem State.warn_bus : (s.warn w).bus = s.bus := rfl
@[simp] theorem State.warn_log : (s.warn w).log = .warn w :: s.log := rfl
end

section
variable (s : State) (e : Err) (k : List UOp)
@[simp] theorem State.raise_ld : (s.raise e k).ld = s.ld := rfl
@[simp] theorem State.raise_acc : (s.raise e k).acc = s.acc := rfl
@[simp] theorem State.raise_id : (s.raise e k).id = s.id := rfl
@[simp] theorem State.raise_count : (s.raise e k).count = s.count := rfl
@[simp] theorem State.raise_pcount : (s.raise e k).pcount = s.pcount := rfl
@[simp] theorem State.raise_txlen : (s.raise e k).txlen = s.txlen := rfl
@[simp] theorem State.raise_txbuf : (s.raise e k).txbuf = s.txbuf := rfl
@[simp] theorem State.raise_rxlen : (s.raise e k).rxlen = s.rxlen := rfl
@[simp] theorem State.raise_rxbuf : (s.raise e k).rxbuf = s.rxbuf := rfl
@[simp] theorem State.raise_status : (s.raise e k).status = s.status := rfl
@[simp] theorem State.raise_sess : (s.raise e k).sess = s.sess := rfl
@[simp] theorem State.raise_quirk : (s.raise e k).quirk = s.quirk := rfl
@[simp] theorem State.raise_scanrec : (s.raise e k).scanrec = s.scanrec := rfl
@[simp] theorem State.raise_seq : (s.raise e k).seq = unwind e k := rfl
@[simp] theorem State.raise_lockDepth : (s.raise e k).lockDepth = s.lockDepth := rfl
@[simp] theorem State.raise_params : (s.raise e k).params = s.params := rfl
@[simp] theorem State.raise_host : (s.raise e k).host = s.host := rfl
@[simp] theorem State.raise_bus : (s.raise e k).bus = s.bus := rfl
@[simp] theorem State.raise_log : (s.raise e k).log = s.log := rfl
end

section
variable (s : State) (k : List UOp)
@[simp] theorem State.issue_ld : (s.issue k).ld = s.ld := rfl
@[simp] theorem State.issue_acc : (s.issue k).acc = s.acc := rfl
@[simp] theorem State.issue_id : (s.issue k).id = s.id := rfl
@[simp] theorem State.issue_count : (s.issue k).count = s.count := rfl
@[simp] theorem State.issue_pcount : (s.issue k).pcount = s.pcount := rfl
@[simp] theorem State.issue_txlen : (s.issue k).txlen = s.txlen := rfl
@[simp] theorem State.issue_txbuf : (s.issue k).txbuf = s.txbuf := rfl
@[simp] theorem State.issue_rxlen : (s.issue k).rxlen = s.rxlen := rfl
@[simp] theorem State.issue_rxbuf : (s.issue k).rxbuf = s.rxbuf := rfl
@[simp] theorem State.issue_status : (s.issue k).status = s.status.issued := rfl
@[simp] theorem State.issue_sess : (s.issue k).sess = s.sess := rfl
@[simp] theorem State.issue_quirk : (s.issue k).quirk = s.quirk := rfl
@[simp] theorem State.issue_scanrec : (s.issue k).scanrec = s.scanrec := rfl
@[simp] theorem State.issue_seq : (s.issue k).seq = k := rfl
@[simp] theorem State.issue_lockDepth : (s.issue k).lockDepth = s.lockDepth := rfl
@[simp] theorem State.issue_params : (s.issue k).params = s.params := rfl
@[simp] theorem State.issue_host : (s.issue k).host = s.host := rfl
@[simp] theorem State.issue_bus : (s.issue k).bus = s.bus := rfl
@[simp] theorem State.issue_log : (s.issue k).log = s.log := rfl
end

section
variable (s : State) (e : Err)
@[simp] theorem State.complete_ld : (s.complete e).ld = s.ld := rfl
@[simp] theorem State.complete_acc : (s.complete e).acc = s.acc := rfl
@[simp] theorem State.complete_id : (s.complete e).id = s.id := rfl
@[simp] theorem State.complete_count : (s.complete e).count = s.count := rfl
@[simp] theorem State.complete_pcount : (s.complete e).pcount = s.pcount := rfl
@[simp] theorem State.complete_txlen : (s.complete e).txlen = s.txlen := rfl
@[simp] theorem State.complete_txbuf : (s.complete e).txbuf = s.txbuf := rfl
@[simp] theorem State.complete_rxlen : (s.complete e).rxlen = s.rxlen := rfl
@[simp] theorem State.complete_rxbuf : (s.complete e).rxbuf = s.rxbuf := rfl
@[simp] theorem State.complete_status : (s.complete e).status = s.status.completed e := rfl
@[simp] theorem State.complete_sess : (s.complete e).sess = s.sess := rfl
@[simp] theorem State.complete_quirk : (s.complete e).quirk = s.quirk := rfl
@[simp] theorem State.complete_scanrec : (s.complete e).scanrec = s.scanrec := rfl
@[simp] theorem State.complete_seq : (s.complete e).seq = [] := rfl
@[simp] theorem State.complete_lockDepth : (s.complete e).lockDepth = s.lockDepth := rfl
@[simp] theorem State.complete_params : (s.complete e).params = s.params := rfl
@[simp] theorem State.complete_host : (s.complete e).host = s.host := rfl
@[simp] theorem State.complete_bus : (s.complete e).bus = s.bus := rfl
@[simp] theorem State.complete_log : (s.complete e).log = s.log := rfl
end

section
variable (s : State) (e : Err)
@[simp] theorem State.reject_ld : (s.reject e).ld = s.ld := rfl
@[simp] theorem State.reject_acc : (s.reject e).acc = s.acc := rfl
@[simp] theorem State.reject_id : (s.reject e).id = s.id := rfl
@[simp] theorem State.reject_count : (s.reject e).count = s.count := rfl
@[simp] theorem State.reject_pcount : (s.reject e).pcount = s.pcount := rfl
@[simp] theorem State.reject_txlen : (s.reject e).txlen = s.txlen := rfl
@[simp] theorem State.reject_txbuf : (s.reject e).txbuf = s.txbuf := rfl
@[simp] theorem State.reject_rxlen : (s.reject e).rxlen = s.rxlen := rfl
@[simp] theorem State.reject_rxbuf : (s.reject e).rxbuf = s.rxbuf := rfl
@[simp] theorem State.reject_status : (s.reject e).status = s.status.issued.completed e := rfl
@[simp] theorem State.reject_sess : (s.reject e).sess = s.sess := rfl
@[simp] theorem State.reject_quirk : (s.reject e).quirk = s.quirk := rfl
@[simp] theorem State.reject_scanrec : (s.reject e).scanrec = s.scanrec := rfl
@[simp] theorem State.reject_seq : (s.reject e).seq = [] := rfl
@[simp] theorem State.reject_lockDepth : (s.reject e).lockDepth = s.lockDepth := rfl
@[simp] theorem State.reject_params : (s.reject e).params = s.params := rfl
@[simp] theorem State.reject_host : (s.reject e).host = s.host := rfl
@[simp] theorem State.reject_bus : (s.reject e).bus = s.bus := rfl
@[simp] theorem State.reject_log : (s.reject e).log = s.log := rfl
end

section
variable (s : State) (bs : List Byte)
@[simp] theorem State.checked_ld : (s.checked bs).ld = s.ld := rfl
@[simp] theorem State.checked_acc : (s.checked bs).acc = s.acc := rfl
@[simp] theorem State.checked_id : (s.checked bs).id = s.id := rfl
@[simp] theorem State.checked_count : (s.checked bs).count = s.count := rfl
@[simp] theorem State.checked_pcount : (s.checked bs).pcount = s.pcount := rfl
@[simp] theorem State.checked_txlen : (s.checked bs).txlen = s.txlen := rfl
@[simp] theorem State.checked_txbuf : (s.checked bs).txbuf = s.txbuf := rfl
@[simp] theorem State.checked_rxlen : (s.checked bs).rxlen = s.rxlen := rfl
@[simp] theorem State.checked_rxbuf : (s.checked bs).rxbuf = s.rxbuf := rfl
@[simp] theorem State.checked_status : (s.checked bs).status = s.status := rfl
@[simp] theorem State.checked_sess : (s.checked bs).sess = s.sess := rfl
@[simp] theorem State.checked_quirk : (s.checked bs).quirk = s.quirk := rfl
@[simp] theorem State.checked_scanrec : (s.checked bs).scanrec = s.scanrec := rfl
@[simp] theorem State.checked_seq : (s.checked bs).seq = s.seq := rfl
@[simp] theorem State.checked_lockDepth : (s.checked bs).lockDepth = s.lockDepth := rfl
@[simp] theorem State.checked_params : (s.checked bs).params = s.params := rfl
@[simp] theorem State.checked_host : (s.checked bs).host = s.host := rfl
@[simp] theorem State.checked_bus : (s.checked bs).bus = s.bus := rfl
@[simp] theorem State.checked_log : (s.checked bs).log = .checksum bs (checksum8 s.params bs) :: s.log := rfl
end

section
variable (s : State)
@[simp] theorem State.append_ld : (s.append).ld = s.ld := rfl
@[simp] theorem State.append_acc : (s.append).acc = s.acc := rfl
@[simp] theorem State.append_id : (s.append).id = s.id := rfl
@[simp] theorem State.append_count : (s.append).count = s.count := rfl
@[simp] theorem State.append_pcount : (s.append).pcount = s.pcount := rfl
@[simp] theorem State.append_txlen : (s.append).txlen = s.txlen := rfl
@[simp] theorem State.append_txbuf : (s.append).txbuf = s.txbuf := rfl
@[simp] theorem State.append_rxlen : (s.append).rxlen = s.rxlen := rfl
@[simp] theorem State.append_rxbuf : (s.append).rxbuf = s.rxbuf := rfl
@[simp] theorem State.append_status : (s.append).status = s.status := rfl
@[simp] theorem State.append_sess : (s.append).sess = s.sess := rfl
@[simp] theorem State.append_quirk : (s.append).quirk = s.quirk := rfl
@[simp] theorem State.append_scanrec : (s.append).scanrec = s.scanrec ++ [s.id] := rfl
@[simp] theorem State.append_seq : (s.append).seq = s.seq := rfl
@[simp] theorem State.append_lockDepth : (s.append).lockDepth = s.lockDepth := rfl
@[simp] theorem State.append_params : (s.append).params = s.params := rfl
@[simp] theorem State.append_host : (s.append).host = s.host := rfl
@[simp] theorem State.append_bus : (s.append).bus = s.bus := rfl
@[simp] theorem State.append_log : (s.append).log = s.log := rfl
end

section
variable (s : State)
@[simp] theorem State.emitFound_ld : (s.emitFound).ld = s.ld := rfl
@[simp] theorem State.emitFound_acc : (s.emitFound).acc = s.acc := rfl
@[simp] theorem State.emitFound_id : (s.emitFound).id = s.id := rfl
@[simp] theorem State.emitFound_count : (s.emitFound).count = s.count := rfl
@[simp] theorem State.emitFound_pcount : (s.emitFound).pcount = s.pcount := rfl
@[simp] theorem State.emitFound_txlen : (s.emitFound).txlen = s.txlen := rfl
@[simp] theorem State.emitFound_txbuf : (s.emitFound).txbuf = s.txbuf := rfl
@[simp] theorem State.emitFound_rxlen : (s.emitFound).rxlen = s.rxlen := rfl
@[simp] theorem State.emitFound_rxbuf : (s.emitFound).rxbuf = s.rxbuf := rfl
@[simp] theorem State.emitFound_status : (s.emitFound).status = { s.status with foundPending := true } := rfl
@[simp] theorem State.emitFound_sess : (s.emitFound).sess = s.sess := rfl
@[simp] theorem State.emitFound_quirk : (s.emitFound).quirk = s.quirk := rfl
@[simp] theorem State.emitFound_scanrec : (s.emitFound).scanrec = s.scanrec := rfl
@[simp] theorem State.emitFound_seq : (s.emitFound).seq = s.seq := rfl
@[simp] theorem State.emitFound_lockDepth : (s.emitFound).lockDepth = s.lockDepth := rfl
@[simp] theorem State.emitFound_params : (s.emitFound).params = s.params := rfl
@[simp] theorem State.emitFound_host : (s.emitFound).host = s.host := rfl
@[simp] theorem State.emitFound_bus : (s.emitFound).bus = s.bus := rfl
@[simp] theorem State.emitFound_log : (s.emitFound).log = .found s.id :: s.log := rfl
end

section
variable (s : State)
@[simp] theorem State.emitReport_ld : (s.emitReport).ld = s.ld := rfl
@[simp] theorem State.emitReport_acc : (s.emitReport).acc = s.acc := rfl
@[simp] theorem State.emitReport_id : (s.emitReport).id = s.id := rfl
@[simp] theorem State.emitReport_count : (s.emitReport).count = s.count := rfl
@[simp] theorem State.emitReport_pcount : (s.emitReport).pcount = s.pcount := rfl
@[simp] theorem State.emitReport_txlen : (s.emitReport).txlen = s.txlen := rfl
@[simp] theorem State.emitReport_txbuf : (s.emitReport).txbuf = s.txbuf := rfl
@[simp] theorem State.emitReport_rxlen : (s.emitReport).rxlen = s.rxlen := rfl
@[simp] theorem State.emitReport_rxbuf : (s.emitReport).rxbuf = s.rxbuf := rfl
@[simp] theorem State.emitReport_status : (s.emitReport).status = { s.status with reportPending := true } := rfl
@[simp] theorem State.emitReport_sess : (s.emitReport).sess = s.sess := rfl
@[simp] theorem State.emitReport_quirk : (s.emitReport).quirk = s.quirk := rfl
@[simp] theorem State.emitReport_scanrec : (s.emitReport).scanrec = s.scanrec := rfl
@[simp] theorem State.emitReport_seq : (s.emitReport).seq = s.seq := rfl
@[simp] theorem State.emitReport_lockDepth : (s.emitReport).lockDepth = s.lockDepth := rfl
@[simp] theorem State.emitReport_params : (s.emitReport).params = s.params := rfl
@[simp] theorem State.emitReport_host : (s.emitReport).host = s.host := rfl
@[simp] theorem State.emitReport_bus : (s.emitReport).bus = s.bus := rfl
@[simp] theorem State.emitReport_log : (s.emitReport).log = .report s.id :: s.log := rfl
end

section
variable (s : State) (rest : List HostInput)
@[simp] theorem State.foundTaken_ld : (s.foundTaken rest).ld = s.ld := rfl
@[simp] theorem State.foundTaken_acc : (s.foundTaken rest).acc = s.acc := rfl
@[simp] theorem State.foundTaken_id : (s.foundTaken rest).id = s.id := rfl
@[simp] theorem State.foundTaken_count : (s.foundTaken rest).count = s.count := rfl
@[simp] theorem State.foundTaken_pcount : (s.foundTaken rest).pcount = s.pcount := rfl
@[simp] theorem State.foundTaken_txlen : (s.foundTaken rest).txlen = s.txlen := rfl
@[simp] theorem State.foundTaken_txbuf : (s.foundTaken rest).txbuf = s.txbuf := rfl
@[simp] theorem State.foundTaken_rxlen : (s.foundTaken rest).rxlen = s.rxlen := rfl
@[simp] theorem State.foundTaken_rxbuf : (s.foundTaken rest).rxbuf = s.rxbuf := rfl
@[simp] theorem State.foundTaken_status : (s.foundTaken rest).status = { s.status with foundPending := false } := rfl
@[simp] theorem State.foundTaken_sess : (s.foundTaken rest).sess = s.sess := rfl
@[simp] theorem State.foundTaken_quirk : (s.foundTaken rest).quirk = s.quirk := rfl
@[simp] theorem State.foundTaken_scanrec : (s.foundTaken rest).scanrec = s.scanrec := rfl
@[simp] theorem State.foundTaken_seq : (s.foundTaken rest).seq = s.seq := rfl
@[simp] theorem State.foundTaken_lockDepth : (s.foundTaken rest).lockDepth = s.lockDepth := rfl
@[simp] theorem State.foundTaken_params : (s.foundTaken rest).params = s.params := rfl
@[simp] theorem State.foundTaken_host : (s.foundTaken rest).host = rest := rfl
@[simp] theorem State.foundTaken_bus : (s.foundTaken rest).bus = s.bus := rfl
@[simp] theorem State.foundTaken_log : (s.foundTaken rest).log = s.log := rfl
end

section
variable (s : State) (rest : List HostInput)
@[simp] theorem State.reportTaken_ld : (s.reportTaken rest).ld = s.ld := rfl
@[simp] theorem State.reportTaken_acc : (s.reportTaken rest).acc = s.acc := rfl
@[simp] theorem State.reportTaken_id : (s.reportTaken rest).id = s.id := rfl
@[simp] theorem State.reportTaken_count : (s.reportTaken rest).count = s.count := rfl
@[simp] theorem State.reportTaken_pcount : (s.reportTaken rest).pcount = s.pcount := rfl
@[simp] theorem State.reportTaken_txlen : (s.reportTaken rest).txlen = s.txlen := rfl
@[simp] theorem State.reportTaken_txbuf : (s.reportTaken rest).txbuf = s.txbuf := rfl
@[simp] theorem State.reportTaken_rxlen : (s.reportTaken rest).rxlen = s.rxlen := rfl
@[simp] theorem State.reportTaken_rxbuf : (s.reportTaken rest).rxbuf = s.rxbuf := rfl
@[simp] theorem State.reportTaken_status : (s.reportTaken rest).status = { s.status with reportPending := false } := rfl
@[simp] theorem State.reportTaken_sess : (s.reportTaken rest).sess = s.sess := rfl
@[simp] theorem State.reportTaken_quirk : (s.reportTaken rest).quirk = s.quirk := rfl
@[simp] theorem State.reportTaken_scanrec : (s.reportTaken rest).scanrec = s.scanrec := rfl
@[simp] theorem State.reportTaken_seq : (s.reportTaken rest).seq = s.seq := rfl
@[simp] theorem State.reportTaken_lockDepth : (s.reportTaken rest).lockDepth = s.lockDepth := rfl
@[simp] theorem State.reportTaken_params : (s.reportTaken rest).params = s.params := rfl
@[simp] theorem State.reportTaken_host : (s.reportTaken rest).host = rest := rfl
@[simp] theorem State.reportTaken_bus : (s.reportTaken rest).bus = s.bus := rfl
@[simp] theorem State.reportTaken_log : (s.reportTaken rest).log = s.log := rfl
end

/-! ### Register updates: what none of them writes, and what each writes -/

section
variable (s : State) (u : Update)
@[simp] theorem State.apply_pcount : (s.apply u).pcount = s.pcount := by cases u <;> rfl
@[simp] theorem State.apply_txlen : (s.apply u).txlen = s.txlen := by cases u <;> rfl
@[simp] theorem State.apply_txbuf : (s.apply u).txbuf = s.txbuf := by cases u <;> rfl
@[simp] theorem State.apply_rxlen : (s.apply u).rxlen = s.rxlen := by cases u <;> rfl
@[simp] theorem State.apply_status : (s.apply u).status = s.status := by cases u <;> rfl
@[simp] theorem State.apply_scanrec : (s.apply u).scanrec = s.scanrec := by cases u <;> rfl
@[simp] theorem State.apply_seq : (s.apply u).seq = s.seq := by cases u <;> rfl
@[simp] theorem State.apply_lockDepth : (s.apply u).lockDepth = s.lockDepth := by cases u <;> rfl
@[simp] theorem State.apply_params : (s.apply u).params = s.params := by cases u <;> rfl
@[simp] theorem State.apply_host : (s.apply u).host = s.host := by cases u <;> rfl
@[simp] theorem State.apply_bus : (s.apply u).bus = s.bus := by cases u <;> rfl
@[simp] theorem State.apply_log : (s.apply u).log = s.log := by cases u <;> rfl
end

section
variable (s : State)
theorem State.apply_cursor (v : Discrepancy) : s.apply (.cursor v) = { s with ld := v } := rfl
theorem State.apply_clearAcc : s.apply .clearAcc = { s with acc := 0 } := rfl
theorem State.apply_chosenBit (pos : Nat) (d : Bool) : s.apply (.chosenBit pos d) = { s with acc := setAccBit s.acc pos d } := rfl
theorem State.apply_clearCount : s.apply .clearCount = { s with count := 0 } := rfl
theorem State.apply_identify : s.apply .identify = { s with id := idOf s.acc } := rfl
theorem State.apply_identifier (i : Identifier) : s.apply (.identifier i) = { s with id := i } := rfl
theorem State.apply_response (bs : List Byte) : s.apply (.response bs) = { s with rxbuf := s.rxbuf.writeBlock 0 bs } := rfl
theorem State.apply_clearQuirk : s.apply .clearQuirk = { s with quirk := false } := rfl
theorem State.apply_flagQuirk : s.apply .flagQuirk = { s with quirk := s.quirk || isQuirk s.params s.id } := rfl
theorem State.apply_acquire : s.apply .acquire = { s with sess := .acquired } := rfl
end

/-! ### Two updates of the sequencer: the later one stands -/

@[simp] theorem State.goto_goto (s : State) (j k : List UOp) : (s.goto j).goto k = s.goto k := rfl
@[simp] theorem State.goto_complete (s : State) (k : List UOp) (e : Err) : (s.goto k).complete e = s.complete e := rfl
@[simp] theorem State.goto_issue (s : State) (j k : List UOp) : (s.goto j).issue k = s.issue k := rfl
@[simp] theorem State.goto_raise (s : State) (j k : List UOp) (e : Err) : (s.goto j).raise e k = s.raise e k := rfl
theorem State.apply_goto (s : State) (u : Update) (k : List UOp) : (s.goto k).apply u = (s.apply u).goto k := by
  cases u <;> rfl

end Sys2Proof.Machine
end

