-- ==== Sys2Proof/Laws/Ops.lean ====
section
/-! SUPPORT. What the shared operations can do: the transport call, the raise and its unwinding, the buffers. -/

namespace Sys2Proof.Machine

/-! ### The transport call -/

/-- A call that returned used up one answer, was put in the output, and changed nothing outside the transport. -/
theorem State.ask_some {s s' : State} {c : Call} {r : Reply} (h : s.ask c = some (r, s')) :
    ∃ b : Transport, s.bus.call s.params c = some (r, b) ∧ s' = { s with bus := b, log := .call c r :: s.log } := by
  unfold State.ask at h
  split at h
  · cases h
  · next r' b hb =>
    cases h
    exact ⟨b, hb, rfl⟩

/-- A transport call returns iff an answer is left (R83: on no other condition). -/
theorem State.ask_eq_none {s : State} {c : Call} : s.ask c = none ↔ s.bus.answers = [] := by
  unfold State.ask Transport.call
  cases s.bus.answers <;> simp

theorem Transport.call_some {p : Params} {c : Call} {b b' : Transport} {r : Reply}
    (h : b.call p c = some (r, b')) :
    ∃ a rest, b.answers = a :: rest ∧ r = a.reply p c b.devices ∧ b'.answers = rest ∧
      b'.calls = b.calls + 1 ∧ b'.lockedElsewhere = b.lockedElsewhere ∧ b'.power = powerAfter c r b.power ∧
      b'.devices = if r = .fail then devicesAfterFailure p c b.calls b.devices else devicesAfter p c b.devices := by
  unfold Transport.call at h
  split at h
  · cases h
  · next a rest ha =>
    simp only [Option.some.injEq, Prod.mk.injEq] at h
    obtain ⟨rfl, rfl⟩ := h
    exact ⟨a, rest, ha, rfl, rfl, rfl, rfl, rfl, rfl⟩

section
variable {s s' : State} {c : Call} {r : Reply} (h : s.ask c = some (r, s'))
include h

theorem State.ask_ld : s'.ld = s.ld := by obtain ⟨b, -, rfl⟩ := State.ask_some h; rfl
theorem State.ask_acc : s'.acc = s.acc := by obtain ⟨b, -, rfl⟩ := State.ask_some h; rfl
theorem State.ask_seq : s'.seq = s.seq := by obtain ⟨b, -, rfl⟩ := State.ask_some h; rfl
theorem State.ask_params : s'.params = s.params := by obtain ⟨b, -, rfl⟩ := State.ask_some h; rfl
theorem State.ask_host : s'.host = s.host := by obtain ⟨b, -, rfl⟩ := State.ask_some h; rfl
theorem State.ask_lockDepth : s'.lockDepth = s.lockDepth := by obtain ⟨b, -, rfl⟩ := State.ask_some h; rfl
theorem State.ask_log : s'.log = .call c r :: s.log := by obtain ⟨b, -, rfl⟩ := State.ask_some h; rfl

theorem State.ask_answers : s.bus.answers.length = s'.bus.answers.length + 1 := by
  obtain ⟨b, hb, rfl⟩ := State.ask_some h
  obtain ⟨a, rest, ha, -, hr, -⟩ := Transport.call_some hb
  simp [ha, hr]

end

/-- The call does not look at the sequencer. -/
theorem State.ask_goto (s : State) (c : Call) (k : List UOp) :
    (s.goto k).ask c = (s.ask c).map fun q => (q.1, q.2.goto k) := by
  unfold State.ask
  simp only [State.goto_bus, State.goto_params]
  cases s.bus.call s.params c <;> rfl

/-! ### `else raise BusIoFailure` -/

theorem State.askOr_none {s : State} {c : Call} {k : List UOp} {go : Reply → State → Progress}
    (h : s.ask c = none) : s.askOr c k go = .waiting := by simp [State.askOr, h]

theorem State.askOr_fail {s s' : State} {c : Call} {k : List UOp} {go : Reply → State → Progress}
    (h : s.ask c = some (.fail, s')) : s.askOr c k go = .moved (s'.raise .busIoFailure k) := by
  simp [State.askOr, h]

theorem State.askOr_reply {s s' : State} {c : Call} {k : List UOp} {go : Reply → State → Progress} {r : Reply}
    (h : s.ask c = some (r, s')) (hr : r ≠ .fail) : s.askOr c k go = go r s' := by
  unfold State.askOr
  rw [h]
  cases r <;> first | rfl | exact absurd rfl hr

/-- All a guarded call can do: wait, raise, or go on with the reply. -/
theorem State.askOr_cases (s : State) (c : Call) (k : List UOp) (go : Reply → State → Progress) :
    (s.ask c = none ∧ s.askOr c k go = .waiting) ∨
    (∃ s', s.ask c = some (.fail, s') ∧ s.askOr c k go = .moved (s'.raise .busIoFailure k)) ∨
    (∃ r s', r ≠ .fail ∧ s.ask c = some (r, s') ∧ s.askOr c k go = go r s') := by
  rcases h : s.ask c with _ | ⟨r, s'⟩
  · exact .inl ⟨rfl, State.askOr_none h⟩
  · by_cases hr : r = .fail
    · subst hr; exact .inr (.inl ⟨s', rfl, State.askOr_fail h⟩)
    · exact .inr (.inr ⟨r, s', hr, rfl, State.askOr_reply h hr⟩)

/-! ### Unwinding -/

/-- The weight of what a raise leaves to be done (Laws/Run.lean). -/
theorem unwind_weight (e : Err) (k : List UOp) :
    ((unwind e k).map UOp.weight).sum ≤ (k.map UOp.weight).sum + 1 := by
  induction k with
  | nil => simp [unwind, UOp.weight]
  | cons u k ih =>
    cases u <;> simp only [unwind, List.map_cons, List.sum_cons, UOp.weight] <;> omega

/-- A raise closes every bracket that was to be closed: it drops no `unlock` before the place it is caught. -/
theorem unwind_ne_nil (e : Err) (k : List UOp) : unwind e k ≠ [] := by
  induction k with
  | nil => simp [unwind]
  | cons u k ih => cases u <;> simp_all [unwind]

theorem bytesOfBits_length (n : Nat) (bs : List Bool) : (bytesOfBits n bs).length = n := by
  induction n generalizing bs with
  | zero => rfl
  | succ n ih => rw [bytesOfBits, List.length_cons, ih]

/-- A block read that returned gave as many bytes as were asked for, whatever the answer was. -/
theorem State.ask_readBlock_length {s s' : State} {n : Nat} {bs : List Byte}
    (h : s.ask (.readBlock n) = some (.bytes bs, s')) : bs.length = n := by
  obtain ⟨b, hb, -⟩ := State.ask_some h
  obtain ⟨a, -, -, hr, -⟩ := Transport.call_some hb
  cases a with
  | fail => cases hr
  | value l =>
    cases hr
    simp
  | wire =>
    cases hr
    exact bytesOfBits_length _ _

end Sys2Proof.Machine
end

