-- ==== Sys2Proof/Laws/PerInstr.lean ====
section
/-! SUPPORT. Facts about every operation as syntax, one lemma for each constructor. -/

namespace Sys2Proof.Laws.LegalWord

/-- The fields of the operation's command word are legal (R107) and name the operation (R105). -/
def Statement (i : Instr) : Prop := i.fields.illegal = none ∧ i.fields.instr = some i

theorem searchPass (alarm : Bool) (fam : Byte) : Statement (.searchPass alarm fam) := by
  simp [Statement, Instr.fields, CmdFields.illegal, CmdFields.instr, opDefined, opSearches, opResponds]

theorem searchAll (alarm : Bool) (fam : Byte) : Statement (.searchAll alarm fam) := by
  simp [Statement, Instr.fields, CmdFields.illegal, CmdFields.instr, opDefined, opSearches, opResponds]

theorem readId : Statement .readId := ⟨rfl, rfl⟩

theorem matchId : Statement .matchId := ⟨rfl, rfl⟩

theorem skip : Statement .skip := ⟨rfl, rfl⟩

theorem resume : Statement .resume := ⟨rfl, rfl⟩

theorem resetSelect : Statement .resetSelect := ⟨rfl, rfl⟩

theorem writeRead (resp : Bool) : Statement (.writeRead resp) := by
  simp [Statement, Instr.fields, CmdFields.illegal, CmdFields.instr, opDefined, opSearches, opResponds]

theorem acquire : Statement .acquire := ⟨rfl, rfl⟩

theorem release : Statement .release := ⟨rfl, rfl⟩

theorem scan (alarm : Bool) (fam : Byte) : Statement (.scan alarm fam) := by
  simp [Statement, Instr.fields, CmdFields.illegal, CmdFields.instr, opDefined, opSearches, opResponds]

end Sys2Proof.Laws.LegalWord
end

