-- ==== Sys2Proof/Laws/Run.lean ====
section
/-! SUPPORT. Running on: every step of the sequencer lowers the budget, so `run` always goes as far as the
sequencer goes; the equations of `run` that proofs cite, and its induction. -/

namespace Sys2Proof.Machine

theorem UOp.weight_pos (u : UOp) : 0 < u.weight := by cases u <;> simp [UOp.weight]

/-- A guarded call lowers the budget if going on adds less than ten. -/
theorem State.askOr_budget {s t : State} {c : Call} {u : UOp} {k : List UOp} {go : Reply → State → Progress}
    (hs : s.seq = u :: k) (h : s.askOr c k go = .moved t)
    (hgo : ∀ r s', s'.bus.answers.length + 1 = s.bus.answers.length → s'.host = s.host → s'.seq = s.seq →
      go r s' = .moved t → t.bus.answers.length = s'.bus.answers.length ∧ t.host.length = s'.host.length ∧
        (t.seq.map UOp.weight).sum ≤ (k.map UOp.weight).sum + 9) :
    t.budget < s.budget := by
  have hu := u.weight_pos
  have hw : (s.seq.map UOp.weight).sum = u.weight + (k.map UOp.weight).sum := by rw [hs]; simp
  rcases State.askOr_cases s c k go with ⟨-, h'⟩ | ⟨s', ha, h'⟩ | ⟨r, s', -, ha, h'⟩
  · rw [h'] at h; cases h
  · rw [h'] at h; cases h
    have h1 := State.ask_answers ha
    have h2 := unwind_weight .busIoFailure k
    simp only [State.budget, State.raise_bus, State.raise_host, State.raise_seq, State.ask_host ha]
    omega
  · rw [h'] at h
    have h1 := State.ask_answers ha
    obtain ⟨ha', hh', hw'⟩ := hgo r s' (by omega) (State.ask_host ha) (State.ask_seq ha) h
    simp only [State.budget, ha', hh', State.ask_host ha]
    omega

theorem afterReset_weight (scmd : Byte) (after : Option SearchMode) (k : List UOp) :
    ((afterReset scmd after k).map UOp.weight).sum ≤ (k.map UOp.weight).sum + 7 := by
  cases after <;> simp [afterReset, UOp.weight]
  omega

theorem afterWrite_weight (pos : Nat) (next : Discrepancy) : (afterWrite pos next).weight = 1 := by
  unfold afterWrite
  split <;> rfl

/-- Every step of the sequencer lowers the budget. -/
theorem transact_budget {s t : State} (h : transact s = .moved t) : t.budget < s.budget := by
  rcases hs : s.seq with _ | ⟨u, k⟩
  · simp [transact, hs] at h
  have hu := fun e => unwind_weight e k
  have hu2 := hu .noPresence
  have hu3 := hu .checksumMismatch
  cases u <;> simp only [transact, hs] at h
  case lock =>
    simp only [stepLock] at h
    split at h <;> cases h
    simp [State.budget, hs, UOp.weight]
  case unlock => cases h; simp [State.budget, hs, UOp.weight]
  case select =>
    cases h
    simp only [State.budget, selectFrame, matchFrame, skipFrame, State.goto_seq, State.goto_bus, State.goto_host, hs]
    split <;> simp [UOp.weight] <;> omega
  case writeTx =>
    simp only [stepWriteTx] at h
    split at h
    · cases h
    · refine State.askOr_budget hs h fun r s' h1 h2 h3 hg => ?_
      cases hg; simp
  case passWrite pos next d =>
    refine State.askOr_budget hs h fun r s' h1 h2 h3 hg => ?_
    cases hg
    simp only [State.goto_bus, State.goto_host, State.goto_seq, List.map_cons, List.sum_cons, afterWrite_weight]
    simp [UOp.weight]
    omega
  case checksum =>
    simp only [stepChecksum] at h
    split at h <;> cases h <;> simp [State.budget, hs, UOp.weight]
    omega
  case quirkStep =>
    simp only [stepQuirkStep] at h
    split at h <;> cases h <;> simp [State.budget, hs, UOp.weight, quirkFrame, skipFrame]
    omega
  case quirkCatch =>
    simp only [stepQuirkCatch] at h
    split at h <;> cases h <;> simp [State.budget, hs, UOp.weight]
  case afterPass scmd mode =>
    simp only [stepAfterPass] at h
    split at h <;> cases h
    · simp [State.budget, hs, UOp.weight]
    · cases mode <;> simp [State.budget, hs, UOp.weight, deliver] <;> omega
  case countUp =>
    simp only [stepCountUp] at h
    split at h <;> cases h
    simp [State.budget, hs, UOp.weight]
  case append =>
    simp only [stepAppend] at h
    split at h <;> cases h
    simp [State.budget, hs, UOp.weight]
  case awaitFound =>
    simp only [stepAwaitFound] at h
    split at h
    · cases h
    · split at h <;> cases h
      simp [State.budget, UOp.weight, *]
      omega
  case loopTest =>
    simp only [stepLoopTest] at h
    split at h <;> cases h <;> simp [State.budget, hs, UOp.weight]
  case report e todo =>
    cases todo <;> cases h <;> simp [State.budget, hs, UOp.weight] <;> omega
  case awaitReport =>
    simp only [stepAwaitReport] at h
    split at h
    · cases h
    · split at h
      · cases h
        split <;> simp [State.budget, UOp.weight, *] <;> omega
      · cases h
  case set | settle | emitFound | finish => cases h; simp [State.budget, hs, UOp.weight]
  case beginRelease | released | idle | beginScan | scanQuirk | scanCatch | emitReport | reportFailed | scanEnd =>
    cases h
    simp [State.budget, hs, UOp.weight]
    try omega
  case scanRecord => cases h; simp [State.budget, hs, UOp.weight, searchBody]; omega
  all_goals
    refine State.askOr_budget hs h fun r s' h1 h2 h3 hg => ?_
    clear h
    repeat' split at hg
    all_goals
      cases hg
      have ha := fun scmd after => afterReset_weight scmd after k
      simp [UOp.weight]
      try first | omega | (have := ha ‹Byte› ‹Option SearchMode›; omega)

/-! ### Running -/

/-- Without budget no operation is in flight. -/
theorem transact_of_budget_zero {s : State} (h : s.budget = 0) : transact s = .waiting := by
  rcases hs : s.seq with _ | ⟨u, k⟩
  · simp [transact, hs]
  · have := u.weight_pos
    simp [State.budget, hs] at h
    omega

/-- More steps than the budget make no difference. -/
theorem drive_budget {n m : Nat} {s : State} (hn : s.budget ≤ n) (hm : s.budget ≤ m) : drive n s = drive m s := by
  induction n generalizing m s with
  | zero =>
    cases m with
    | zero => rfl
    | succ m => simp [drive, transact_of_budget_zero (Nat.le_zero.1 hn)]
  | succ n ih =>
    cases m with
    | zero => simp [drive, transact_of_budget_zero (Nat.le_zero.1 hm)]
    | succ m =>
      simp only [drive]
      rcases h : transact s with s' | - | f | r <;> simp only []
      have := transact_budget h
      exact ih (by omega) (by omega)

/-- Running on from a state is running on from the state after its next step. -/
theorem run_moved {s s' : State} (h : transact s = .moved s') : run s = run s' := by
  have hb := transact_budget h
  have : run s = drive (s.budget - 1 + 1) s := by rw [Nat.sub_add_cancel (by omega)]; rfl
  rw [this, drive, h]
  exact drive_budget (by omega) le_rfl

theorem run_waiting {s : State} (h : transact s = .waiting) : run s = .next s := by
  unfold run
  cases s.budget <;> simp [drive, h]

theorem run_fault {s : State} {f : Fault} (h : transact s = .fault f) : run s = .fault f := by
  rcases hb : s.budget with _ | n
  · rw [transact_of_budget_zero hb] at h; cases h
  · rw [run, hb, drive, h]

theorem run_refused {s : State} {r : Refusal} (h : transact s = .refused r) : run s = .refused r := by
  rcases hb : s.budget with _ | n
  · rw [transact_of_budget_zero hb] at h; cases h
  · rw [run, hb, drive, h]

/-- Where no operation is in flight, running on changes nothing. -/
theorem run_idle {s : State} (h : s.seq = []) : run s = .next s := run_waiting (by simp [transact, h])

/-- The induction of `run`: what every step of the sequencer keeps holds where the run ends, and there the
sequencer waits. -/
theorem run_induct {P : State → Prop} (keep : ∀ s s', P s → transact s = .moved s' → P s') {s t : State}
    (hs : P s) (h : run s = .next t) : P t ∧ transact t = .waiting := by
  induction hb : s.budget using Nat.strong_induction_on generalizing s with
  | _ n ih =>
    rcases ht : transact s with s' | - | f | r
    · rw [run_moved ht] at h
      exact ih _ (hb ▸ transact_budget ht) (keep s s' hs ht) h rfl
    · rw [run_waiting ht] at h; cases h; exact ⟨hs, ht⟩
    · rw [run_fault ht] at h; cases h
    · rw [run_refused ht] at h; cases h

/-- Running on twice is running on once. -/
theorem run_run {s t : State} (h : run s = .next t) : run t = .next t :=
  run_waiting (run_induct (P := fun _ => True) (fun _ _ _ _ => trivial) trivial h).2

end Sys2Proof.Machine
end

