-- ==== Sys2Proof/Laws/Sequencer.lean ====
section
/-! SUPPORT. What running on from each entry of the sequencer does, one equation for each of its outcomes. A
state is written as a base state with the entries still to be run put on it (`s.goto k`); the base is what the
equations step. -/

namespace Sys2Proof.Machine

/-- A guarded call made from a state with entries put on it. -/
theorem State.askOr_goto_ok {s s' : State} {c : Call} {r : Reply} (j k : List UOp) {go : Reply → State → Progress}
    (h : s.ask c = some (r, s')) (hr : r ≠ .fail) : (s.goto j).askOr c k go = go r (s'.goto j) :=
  State.askOr_reply (by rw [State.ask_goto, h]; rfl) hr

theorem State.askOr_goto_fail {s s' : State} {c : Call} (j k : List UOp) {go : Reply → State → Progress}
    (h : s.ask c = some (.fail, s')) :
    (s.goto j).askOr c k go = .moved (s'.goto (unwind .busIoFailure k)) :=
  (State.askOr_fail (s' := s'.goto j) (by rw [State.ask_goto, h]; rfl)).trans rfl

theorem State.askOr_goto_none {s : State} {c : Call} (j k : List UOp) {go : Reply → State → Progress}
    (h : s.ask c = none) : (s.goto j).askOr c k go = .waiting :=
  State.askOr_none (by rw [State.ask_goto, h]; rfl)

/-! ### Brackets -/

theorem run_lock {s : State} {k : List UOp} (h : s.lockFree = true) :
    run (s.goto (.lock :: k)) = run (s.locked.goto k) :=
  run_moved (if_pos h)

theorem run_lock_blocked {s : State} {k : List UOp} (h : s.lockFree = false) :
    run (s.goto (.lock :: k)) = .next (s.goto (.lock :: k)) :=
  run_waiting (if_neg (show ¬s.lockFree = true by simp [h]))

theorem run_unlock (s : State) (k : List UOp) : run (s.goto (.unlock :: k)) = run (s.unlocked.goto k) :=
  run_moved rfl

/-- An operation whose program opens with a bracket. -/
theorem start_lock {s : State} {k : List UOp} (h : s.lockFree = true) :
    start (.lock :: k) s = run ((s.issue []).locked.goto k) :=
  run_lock (s := s.issue []) h

/-! ### Completion -/

theorem run_finish (s : State) (e : Err) (k : List UOp) :
    run (s.goto (.finish e :: k)) = .next (s.complete e) := by
  rw [run_moved (s' := s.complete e) rfl]
  exact run_idle rfl

/-- RELEASE's end: three steps (R193). -/
theorem run_released (s : State) (e : Err) (k : List UOp) :
    run (s.goto (.released e :: k)) = .next ({ s with quirk := false, sess := .idle }.complete e) := by
  rw [run_moved (s' := (s.apply .clearQuirk).goto [.idle e]) rfl,
    run_moved (s' := { s with quirk := false, sess := .idle }.goto [.finish e]) rfl, run_finish]

/-! ### Guarded calls: the step after a reply, and the raise -/

section
variable {s s' : State} {r : Reply} {k : List UOp}

/-- An update of the engine's registers. -/
theorem run_set {u : Update} : run (s.goto (.set u :: k)) = run ((s.apply u).goto k) :=
  run_moved (by simp only [transact, State.goto_seq, stepSet, State.apply_goto, State.goto_goto])

theorem run_resetAddressed (h : s.ask .reset = some (r, s')) (hr : r ≠ .fail) :
    run (s.goto (.resetAddressed :: k)) =
      run (s'.goto (if r.flag then k else unwind .noPresence k)) := by
  apply run_moved
  simp only [transact, State.goto_seq, stepResetAddressed]
  rw [State.askOr_goto_ok _ _ h hr]
  split <;> rfl

theorem run_resetAddressed_fail (h : s.ask .reset = some (.fail, s')) :
    run (s.goto (.resetAddressed :: k)) = run (s'.goto (unwind .busIoFailure k)) :=
  run_moved (by simp only [transact, State.goto_seq, stepResetAddressed]; exact State.askOr_goto_fail _ _ h)

theorem run_resetIgnored (h : s.ask .reset = some (r, s')) (hr : r ≠ .fail) :
    run (s.goto (.resetIgnored :: k)) = run (s'.goto k) :=
  run_moved (by simp only [transact, State.goto_seq, stepResetIgnored]; rw [State.askOr_goto_ok _ _ h hr]; rfl)

theorem run_resetIgnored_fail (h : s.ask .reset = some (.fail, s')) :
    run (s.goto (.resetIgnored :: k)) = run (s'.goto (unwind .busIoFailure k)) :=
  run_moved (by simp only [transact, State.goto_seq, stepResetIgnored]; exact State.askOr_goto_fail _ _ h)

theorem run_writeByte {v : Byte} (h : s.ask (.writeByte v) = some (r, s')) (hr : r ≠ .fail) :
    run (s.goto (.writeByte v :: k)) = run (s'.goto k) :=
  run_moved (by simp only [transact, State.goto_seq, stepWriteByte]; rw [State.askOr_goto_ok _ _ h hr]; rfl)

theorem run_writeByte_fail {v : Byte} (h : s.ask (.writeByte v) = some (.fail, s')) :
    run (s.goto (.writeByte v :: k)) = run (s'.goto (unwind .busIoFailure k)) :=
  run_moved (by simp only [transact, State.goto_seq, stepWriteByte]; exact State.askOr_goto_fail _ _ h)

theorem run_writeId (h : s.ask (.writeBlock s.id.toList) = some (r, s')) (hr : r ≠ .fail) :
    run (s.goto (.writeId :: k)) = run (s'.goto k) :=
  run_moved (by
    simp only [transact, State.goto_seq, stepWriteId, State.goto_id]; rw [State.askOr_goto_ok _ _ h hr]; rfl)

theorem run_writeId_fail (h : s.ask (.writeBlock s.id.toList) = some (.fail, s')) :
    run (s.goto (.writeId :: k)) = run (s'.goto (unwind .busIoFailure k)) :=
  run_moved (by
    simp only [transact, State.goto_seq, stepWriteId, State.goto_id]; exact State.askOr_goto_fail _ _ h)

/-- The block read, the call on the checksum port, and its gate (R160). -/
theorem run_readId (h : s.ask (.readBlock 8) = some (r, s')) (hr : r ≠ .fail) :
    run (s.goto (.readId :: k)) =
      if checksumValid s.params r.data then run ({ s'.checked r.data with id := .ofList r.data }.goto k)
      else run ((s'.checked r.data).goto (unwind .checksumMismatch k)) := by
  have hp := State.ask_params h
  rw [run_moved (s' := s'.goto (.checksum r.data :: k))
    (by simp only [transact, State.goto_seq, stepReadId]; rw [State.askOr_goto_ok _ _ h hr]; rfl), ← hp]
  split
  · next hc =>
    rw [run_moved (s := s'.goto (.checksum r.data :: k))
      (s' := (s'.checked r.data).goto (.set (.identifier (.ofList r.data)) :: k)) (if_pos hc)]
    exact run_set
  · next hc => exact run_moved (if_neg hc)

theorem run_readId_fail (h : s.ask (.readBlock 8) = some (.fail, s')) :
    run (s.goto (.readId :: k)) = run (s'.goto (unwind .busIoFailure k)) :=
  run_moved (by simp only [transact, State.goto_seq, stepReadId]; exact State.askOr_goto_fail _ _ h)

theorem run_writeTx {bs : List Byte} (hb : s.txbuf.block? 0 s.txlen = some bs)
    (h : s.ask (.writeBlock bs) = some (r, s')) (hr : r ≠ .fail) :
    run (s.goto (.writeTx :: k)) = run (s'.goto k) :=
  run_moved (by
    simp only [transact, State.goto_seq, stepWriteTx, State.goto_txbuf, State.goto_txlen, hb]
    rw [State.askOr_goto_ok _ _ h hr]; rfl)

theorem run_writeTx_fail {bs : List Byte} (hb : s.txbuf.block? 0 s.txlen = some bs)
    (h : s.ask (.writeBlock bs) = some (.fail, s')) :
    run (s.goto (.writeTx :: k)) = run (s'.goto (unwind .busIoFailure k)) :=
  run_moved (by
    simp only [transact, State.goto_seq, stepWriteTx, State.goto_txbuf, State.goto_txlen, hb]
    exact State.askOr_goto_fail _ _ h)

theorem run_writeTx_unwritten (hb : s.txbuf.block? 0 s.txlen = none) :
    run (s.goto (.writeTx :: k)) = .fault .unwrittenByte :=
  run_fault (by simp only [transact, State.goto_seq, stepWriteTx, State.goto_txbuf, State.goto_txlen, hb])

theorem run_readRx (h : s.ask (.readBlock s.rxlen) = some (r, s')) (hr : r ≠ .fail) :
    run (s.goto (.readRx :: k)) = run ({ s' with rxbuf := s'.rxbuf.writeBlock 0 r.data }.goto k) := by
  rw [run_moved (s' := s'.goto (.set (.response r.data) :: k))
    (by simp only [transact, State.goto_seq, stepReadRx, State.goto_rxlen]; rw [State.askOr_goto_ok _ _ h hr]; rfl)]
  exact run_set

theorem run_readRx_fail (h : s.ask (.readBlock s.rxlen) = some (.fail, s')) :
    run (s.goto (.readRx :: k)) = run (s'.goto (unwind .busIoFailure k)) :=
  run_moved (by
    simp only [transact, State.goto_seq, stepReadRx, State.goto_rxlen]; exact State.askOr_goto_fail _ _ h)

theorem run_resumePower (h : s.ask .resumePower = some (r, s')) (hr : r ≠ .fail) :
    run (s.goto (.resumePower :: k)) = run (s'.goto k) :=
  run_moved (by simp only [transact, State.goto_seq, stepResumePower]; rw [State.askOr_goto_ok _ _ h hr]; rfl)

theorem run_resumePower_fail (h : s.ask .resumePower = some (.fail, s')) :
    run (s.goto (.resumePower :: k)) = run (s'.goto (unwind .busIoFailure k)) :=
  run_moved (by simp only [transact, State.goto_seq, stepResumePower]; exact State.askOr_goto_fail _ _ h)

theorem run_suspendPower (h : s.ask .suspendPower = some (r, s')) (hr : r ≠ .fail) :
    run (s.goto (.suspendPower :: k)) = run (s'.goto k) :=
  run_moved (by simp only [transact, State.goto_seq, stepSuspendPower]; rw [State.askOr_goto_ok _ _ h hr]; rfl)

theorem run_suspendPower_fail (h : s.ask .suspendPower = some (.fail, s')) :
    run (s.goto (.suspendPower :: k)) = run (s'.goto (unwind .busIoFailure k)) :=
  run_moved (by simp only [transact, State.goto_seq, stepSuspendPower]; exact State.askOr_goto_fail _ _ h)

/-! ### The pass -/

theorem run_passReset {scmd : Byte} {after : Option SearchMode} (h : s.ask .reset = some (r, s'))
    (hr : r ≠ .fail) :
    run (s.goto (.passReset scmd after :: k)) =
      if r.flag then run (s'.goto (.passCommand scmd :: afterReset scmd after k))
      else run ({ s' with ld := ldNone }.goto (afterReset scmd after k)) := by
  have h' : transact (s.goto (.passReset scmd after :: k)) =
      if r.flag then .moved (s'.goto (.passCommand scmd :: afterReset scmd after k))
      else .moved (s'.goto (.set (.cursor ldNone) :: afterReset scmd after k)) := by
    simp only [transact, State.goto_seq, stepPassReset]
    rw [State.askOr_goto_ok _ _ h hr]
    rfl
  split
  · next hf => exact run_moved (by rw [h', if_pos hf])
  · next hf => rw [run_moved (h'.trans (if_neg hf)), run_set]; rfl

theorem run_passReset_fail {scmd : Byte} {after : Option SearchMode} (h : s.ask .reset = some (.fail, s')) :
    run (s.goto (.passReset scmd after :: k)) = run (s'.goto (unwind .busIoFailure k)) :=
  run_moved (by simp only [transact, State.goto_seq, stepPassReset]; exact State.askOr_goto_fail _ _ h)

theorem run_passCommand {scmd : Byte} (h : s.ask (.writeByte scmd) = some (r, s')) (hr : r ≠ .fail) :
    run (s.goto (.passCommand scmd :: k)) = run (s'.goto (.passTrue 1 ldLast :: k)) :=
  run_moved (by simp only [transact, State.goto_seq, stepPassCommand]; rw [State.askOr_goto_ok _ _ h hr]; rfl)

theorem run_passCommand_fail {scmd : Byte} (h : s.ask (.writeByte scmd) = some (.fail, s')) :
    run (s.goto (.passCommand scmd :: k)) = run (s'.goto (unwind .busIoFailure k)) :=
  run_moved (by simp only [transact, State.goto_seq, stepPassCommand]; exact State.askOr_goto_fail _ _ h)

theorem run_passTrue {pos : Nat} {next : Discrepancy} (h : s.ask .readBit = some (r, s')) (hr : r ≠ .fail) :
    run (s.goto (.passTrue pos next :: k)) = run (s'.goto (.passComplement pos next r.flag :: k)) :=
  run_moved (by simp only [transact, State.goto_seq, stepPassTrue]; rw [State.askOr_goto_ok _ _ h hr]; rfl)

theorem run_passTrue_fail {pos : Nat} {next : Discrepancy} (h : s.ask .readBit = some (.fail, s')) :
    run (s.goto (.passTrue pos next :: k)) = run (s'.goto (unwind .busIoFailure k)) :=
  run_moved (by simp only [transact, State.goto_seq, stepPassTrue]; exact State.askOr_goto_fail _ _ h)

theorem run_passComplement {pos : Nat} {next : Discrepancy} {b : Bool} (h : s.ask .readBit = some (r, s'))
    (hr : r ≠ .fail) :
    run (s.goto (.passComplement pos next b :: k)) =
      if b && r.flag then run ({ s' with ld := ldNone }.goto k)
      else if b != r.flag then run (s'.goto (.passWrite pos next b :: k))
      else if takesOne s'.ld s'.acc pos then run (s'.goto (.passWrite pos (BitVec.ofNat 7 pos) true :: k))
      else run (s'.goto (.passWrite pos next false :: k)) := by
  have h' : transact (s.goto (.passComplement pos next b :: k)) =
      if b && r.flag then .moved (s'.goto (.set (.cursor ldNone) :: k))
      else if b != r.flag then .moved (s'.goto (.passWrite pos next b :: k))
      else if takesOne s'.ld s'.acc pos then .moved (s'.goto (.passWrite pos (BitVec.ofNat 7 pos) true :: k))
      else .moved (s'.goto (.passWrite pos next false :: k)) := by
    simp only [transact, State.goto_seq, stepPassComplement]
    rw [State.askOr_goto_ok _ _ h hr]
    rfl
  split
  · next hc => rw [run_moved (h'.trans (if_pos hc)), run_set]; rfl
  · next hc =>
    rw [if_neg hc] at h'
    revert h'
    repeat' split
    all_goals exact run_moved

theorem run_passComplement_fail {pos : Nat} {next : Discrepancy} {b : Bool}
    (h : s.ask .readBit = some (.fail, s')) :
    run (s.goto (.passComplement pos next b :: k)) = run (s'.goto (unwind .busIoFailure k)) :=
  run_moved (by simp only [transact, State.goto_seq, stepPassComplement]; exact State.askOr_goto_fail _ _ h)

theorem run_passWrite {pos : Nat} {next : Discrepancy} {d : Bool} (h : s.ask (.writeBit d) = some (r, s'))
    (hr : r ≠ .fail) :
    run (s.goto (.passWrite pos next d :: k)) =
      if pos < lastPosition then
        run ({ s' with acc := setAccBit s'.acc pos d }.goto (.passTrue (pos + 1) next :: k))
      else run ({ s' with acc := setAccBit s'.acc pos d, ld := next }.goto k) := by
  rw [run_moved (s' := s'.goto (.set (.chosenBit pos d) :: afterWrite pos next :: k))
    (by simp only [transact, State.goto_seq, stepPassWrite]; rw [State.askOr_goto_ok _ _ h hr]; rfl), run_set, afterWrite]
  split
  · rfl
  · rw [run_set]; rfl

theorem run_passWrite_fail {pos : Nat} {next : Discrepancy} {d : Bool}
    (h : s.ask (.writeBit d) = some (.fail, s')) :
    run (s.goto (.passWrite pos next d :: k)) = run (s'.goto (unwind .busIoFailure k)) :=
  run_moved (by simp only [transact, State.goto_seq, stepPassWrite]; exact State.askOr_goto_fail _ _ h)

end

/-! ### Choices and updates without a call -/

section
variable (s : State) (k : List UOp)

theorem run_select : run (s.goto (.select :: k)) = run (s.goto (selectFrame s.params s.pcount ++ k)) :=
  run_moved rfl

theorem run_settle : run (s.goto (.settle :: k)) = run ((s.record (.settle s.params.tSettle)).goto k) :=
  run_moved rfl

theorem run_beginRelease :
    run (s.goto (.beginRelease :: k)) =
      run ({ s with sess := .released }.goto [.lock, .quirkStep, .suspendPower, .unlock, .released .ok]) :=
  run_moved rfl

theorem run_quirkStep :
    run (s.goto (.quirkStep :: k)) = run (s.goto (if s.quirk then quirkFrame s.params ++ k else k)) := by
  apply run_moved
  simp only [transact, State.goto_seq, stepQuirkStep, State.goto_quirk]
  split <;> simp only [*] <;> rfl

theorem run_quirkCatch (failed : Bool) :
    run (s.goto (.quirkCatch failed :: k)) = run ((if failed then s.warn .quirk else s).goto k) := by
  apply run_moved
  simp only [transact, State.goto_seq, stepQuirkCatch]
  split <;> simp only [*] <;> rfl

/-- The fresh cursor of the search loop (R136). -/
theorem run_freshCursor :
    run (s.goto (.set (.cursor ldInit) :: .set .clearAcc :: .set .clearCount :: k)) =
      run ({ s with ld := ldInit, acc := 0, count := 0 }.goto k) := by
  rw [run_set, run_set, run_set]
  rfl

theorem run_loopTest (scmd : Byte) (mode : SearchMode) :
    run (s.goto (.loopTest scmd mode :: k)) =
      run (s.goto (if s.ld = ldLast then k else .passReset scmd (some mode) :: k)) := by
  apply run_moved
  simp only [transact, State.goto_seq, stepLoopTest, State.goto_ld]
  split <;> simp only [*] <;> rfl

theorem run_afterPass_none {s : State} (scmd : Byte) (mode : SearchMode) (h : s.ld = ldNone) :
    run (s.goto (.afterPass scmd mode :: k)) = run (s.goto k) :=
  run_moved (if_pos h)

theorem run_countUp {s : State} (hc : s.count ≠ BitVec.allOnes 32) :
    run (s.goto (.countUp :: k)) = run ({ s with count := s.count + 1 }.goto k) :=
  run_moved (if_neg hc)

/-- An identifier counted and finalized, its delivery next. -/
theorem run_afterPass_some {s : State} (scmd : Byte) (mode : SearchMode) (h : s.ld ≠ ldNone)
    (hc : s.count ≠ BitVec.allOnes 32) :
    run (s.goto (.afterPass scmd mode :: k)) =
      run ({ s with count := s.count + 1, id := idOf s.acc }.goto (deliver mode ++ UOp.loopTest scmd mode :: k)) := by
  rw [run_moved (s := s.goto (.afterPass scmd mode :: k))
    (s' := s.goto (.countUp :: .set .identify :: (deliver mode ++ UOp.loopTest scmd mode :: k))) (if_neg h),
    run_countUp _ hc, run_set]
  rfl

theorem run_emitFound : run (s.goto (.emitFound :: k)) = run (s.emitFound.goto (.awaitFound :: k)) :=
  run_moved rfl

/-- The collector (R197), where the scan record has room. -/
theorem run_append {s : State} (h : exceeds s.params.scanCap (s.scanrec.length + 1) = false) :
    run (s.goto (.append :: k)) = run (s.append.goto k) :=
  run_moved (if_neg (by simp [h]))

theorem run_awaitFound {s : State} {a : HostInput} {rest : List HostInput} (h : s.host = a :: rest)
    (ha : takesEvent a = true) :
    run (s.goto (.awaitFound :: k)) =
      run ((s.foundTaken rest).goto k) :=
  run_moved (by simp only [transact, State.goto_seq, stepAwaitFound, State.goto_host, h, if_pos ha]; rfl)

theorem run_scanCatch (e : Err) :
    run (s.goto (.scanCatch e :: k)) = run (s.goto [.report e s.scanrec]) :=
  run_moved rfl

/-- SCAN's end: three steps (R196). -/
theorem run_report_nil (e : Err) :
    run (s.goto (.report e [] :: k)) = .next ({ s with scanrec := [], sess := .acquired }.complete e) := by
  rw [run_moved (s' := { s with scanrec := [] }.goto [.scanEnd e]) rfl,
    run_moved (s' := { s with scanrec := [], sess := .acquired }.goto [.finish e]) rfl, run_finish]

theorem run_report_cons (e : Err) (i : Identifier) (todo : List Identifier) :
    run (s.goto (.report e (i :: todo) :: k)) =
      run ({ s with id := i }.emitReport.goto [.awaitReport e todo]) := by
  rw [run_moved (s' := { s with id := i }.goto [.emitReport e todo]) rfl]
  exact run_moved rfl

/-- The host's answer to a report event, a failed callback being a warning (R198). -/
theorem run_awaitReport {s : State} {a : HostInput} {rest : List HostInput} (e : Err) (todo : List Identifier)
    (h : s.host = a :: rest) (ha : takesEvent a = true) :
    run (s.goto (.awaitReport e todo :: k)) =
      run ((if callbackFailed a then (s.reportTaken rest).warn .callback else s.reportTaken rest).goto
        [.report e todo]) := by
  have h' : transact (s.goto (.awaitReport e todo :: k)) =
      .moved ((s.reportTaken rest).goto [if callbackFailed a then .reportFailed e todo else .report e todo]) := by
    simp only [transact, State.goto_seq, stepAwaitReport, State.goto_host, h, if_pos ha]
    rfl
  rw [run_moved h']
  split
  · exact run_moved rfl
  · rfl

/-- SCAN's beginning: three steps (R196). -/
theorem run_beginScan (scmd : Byte) :
    run (s.goto (.beginScan scmd :: k)) =
      run ({ s with sess := .scanning, quirk := false, scanrec := [] }.goto
        (searchBody scmd .collect ++ [UOp.scanCatch .ok])) := by
  rw [run_moved (s' := { s with sess := .scanning }.goto [.scanQuirk scmd]) rfl,
    run_moved (s' := { s with sess := .scanning, quirk := false }.goto [.scanRecord scmd]) rfl]
  exact run_moved rfl

end

end Sys2Proof.Machine
end

