-- ==== Sys2Proof/Laws/Reference.lean ====
section
/-! SUPPORT. The equations of the reference pseudocode's own vocabulary: guarded calls, answered calls, the open
bracket. -/

namespace Sys2Proof.Reference

open Sys2Proof.Machine

section
variable {s s' : State} {c : Call} {r : Reply} {go : Reply → State → Ending}

theorem calling_none (h : s.ask c = none) : calling s c go = .unfinished := by rw [calling, h]

theorem calling_fail (h : s.ask c = some (.fail, s')) : calling s c go = .failed s' := by rw [calling, h]

theorem calling_reply (h : s.ask c = some (r, s')) (hr : r ≠ .fail) : calling s c go = go r s' := by
  rw [calling, h]
  cases r <;> first | rfl | exact absurd rfl hr

/-- All a guarded call can do. -/
theorem calling_cases (s : State) (c : Call) (go : Reply → State → Ending) :
    (s.ask c = none ∧ calling s c go = .unfinished) ∨
    (∃ s', s.ask c = some (.fail, s') ∧ calling s c go = .failed s') ∨
    (∃ r s', r ≠ .fail ∧ s.ask c = some (r, s') ∧ calling s c go = go r s') := by
  rcases h : s.ask c with _ | ⟨r, s'⟩
  · exact .inl ⟨rfl, calling_none h⟩
  · by_cases hr : r = .fail
    · subst hr; exact .inr (.inl ⟨s', rfl, calling_fail h⟩)
    · exact .inr (.inr ⟨r, s', hr, rfl, calling_reply h hr⟩)

end

theorem answers_nil {s t : State} : Answers s [] t ↔ t = s := Iff.rfl

theorem answers_cons {s t : State} {c : Call} {r : Reply} {l : List (Call × Reply)} :
    Answers s ((c, r) :: l) t ↔ ∃ s', s.ask c = some (r, s') ∧ Answers s' l t := Iff.rfl

/-- The answers to a list of calls determine the state after them. -/
theorem answers_unique {s t u : State} {l : List (Call × Reply)} (ht : Answers s l t) (hu : Answers s l u) :
    t = u := by
  induction l generalizing s with
  | nil => exact ht.trans hu.symm
  | cons q l ih =>
    obtain ⟨s1, h1, h1'⟩ := ht
    obtain ⟨s2, h2, h2'⟩ := hu
    rw [h1] at h2
    cases h2
    exact ih h1' h2'

/-- An operation whose program opens with a bracket is run from the open bracket. -/
theorem start_opened {s : State} {k : List UOp} (h : s.lockFree = true) :
    start (.lock :: k) s = run ((opened s).goto k) := start_lock h

theorem run_unlock_finish (s : State) (e : Err) (k : List UOp) :
    run (s.goto (.unlock :: .finish e :: k)) = .next (closed s e) := by
  rw [run_unlock, run_finish]
  rfl

end Sys2Proof.Reference
end

