-- ==== Sys2Proof/Laws/Safety.lean ====
section
/-! SUPPORT. Well-sequenced contents of the sequencer, and what a raise keeps of them. -/

namespace Sys2Proof.Machine

/-- The head of well-sequenced contents: it ends the operation and is alone, or it does not and what follows is
well-sequenced, with nothing in it that only the step before could have put there. -/
theorem wellSequenced_cons {u : UOp} {k : List UOp} (h : wellSequenced (u :: k) = true) :
    (k = [] ∧ u.ends = true) ∨
      (u.ends = false ∧ wellSequenced k = true ∧ ∀ v ∈ k, v.onlyNext = false) := by
  induction k generalizing u with
  | nil => exact .inl ⟨rfl, h⟩
  | cons v k ih =>
    simp only [wellSequenced, Bool.and_eq_true, Bool.not_eq_true'] at h
    refine .inr ⟨h.1.1, h.2, fun x hx => ?_⟩
    rcases List.mem_cons.1 hx with rfl | hx
    · exact h.1.2
    · rcases ih h.2 with ⟨rfl, -⟩ | ⟨-, -, hk⟩
      · cases hx
      · exact hk x hx

theorem wellSequenced_ne_nil {k : List UOp} (h : wellSequenced k = true) : k ≠ [] := by
  rintro rfl
  cases h

/-- An entry that does not end the operation can go before well-sequenced contents. -/
theorem wellSequenced_of_cons {u : UOp} {k : List UOp} (hu : u.ends = false) (h : wellSequenced k = true)
    (hk : ∀ v ∈ k, v.onlyNext = false) : wellSequenced (u :: k) = true := by
  cases k with
  | nil => cases h
  | cons v k => simp [wellSequenced, hu, h, hk v List.mem_cons_self]

theorem getLast?_cons_of_ne_nil {u : UOp} {k : List UOp} (h : k ≠ []) : (u :: k).getLast? = k.getLast? := by
  cases k with
  | nil => exact absurd rfl h
  | cons v k => simp

/-- Contents that can stand for the rest `k` of an operation: well-sequenced, with as many brackets to close, the
same kind of operation, and nothing collected or acquired that `k` would not. -/
structure StandsFor (k k' : List UOp) : Prop where
  sequenced : wellSequenced k' = true
  onlyNext : ∀ v ∈ k', v.onlyNext = false
  positions : k'.all UOp.positionOk = true
  unlocks : k'.count .unlock = k.count .unlock
  session : ∀ sess, sessionMatches sess k'.getLast? = sessionMatches sess k.getLast?
  collecting : k'.any UOp.collects = true → k.any UOp.collects = true
  acquiring : .set .acquire ∈ k' → .set .acquire ∈ k

/-- What a raise leaves to be done stands for what was to be done. -/
theorem standsFor_unwind (e : Err) {k : List UOp} (h : wellSequenced k = true)
    (hn : ∀ v ∈ k, v.onlyNext = false) (hp : k.all UOp.positionOk = true) : StandsFor k (unwind e k) := by
  induction k with
  | nil => cases h
  | cons u k ih =>
    rcases wellSequenced_cons h with ⟨rfl, he⟩ | ⟨he, hk, ho⟩
    · have hu := hn u List.mem_cons_self
      cases u <;> simp only [UOp.ends, UOp.onlyNext, Bool.false_eq_true, Bool.true_eq_false] at he hu <;>
        exact ⟨rfl, by simp [unwind, UOp.onlyNext], rfl, rfl, fun _ => rfl, by simp [unwind, UOp.collects],
          by simp [unwind]⟩
    · have hne := wellSequenced_ne_nil hk
      rw [List.all_cons, Bool.and_eq_true] at hp
      have ih := ih hk ho hp.2
      have drop (hu : u ≠ .unlock) : StandsFor (u :: k) (unwind e k) :=
        ⟨ih.sequenced, ih.onlyNext, ih.positions, by rw [ih.unlocks, List.count_cons_of_ne hu],
          fun se => by rw [ih.session, getLast?_cons_of_ne_nil hne], fun hc => by simp [ih.collecting hc],
          fun ha => List.mem_cons_of_mem _ (ih.acquiring ha)⟩
      cases u <;> simp only [UOp.ends, Bool.true_eq_false] at he <;> first | exact drop (by simp) | skip
      case unlock =>
        exact ⟨wellSequenced_of_cons rfl ih.sequenced ih.onlyNext,
          List.forall_mem_cons.2 ⟨rfl, ih.onlyNext⟩, ih.positions, by simp [unwind, ih.unlocks],
          fun se => by
            rw [unwind, getLast?_cons_of_ne_nil (unwind_ne_nil _ _), ih.session, getLast?_cons_of_ne_nil hne],
          ih.collecting, fun ha => by simpa using ih.acquiring (by simpa [unwind] using ha)⟩
      case quirkCatch =>
        exact ⟨wellSequenced_of_cons rfl hk ho, List.forall_mem_cons.2 ⟨rfl, ho⟩, hp.2,
          by simp [unwind],
          fun se => by rw [unwind, getLast?_cons_of_ne_nil hne, getLast?_cons_of_ne_nil hne], id,
          fun ha => by simpa [unwind] using ha⟩

end Sys2Proof.Machine
end

