-- ==== Sys2Proof/Tests/Slice0.lean ====
section
/-! SUPPORT. Tests: expected values are those of spec/95_test_vectors.md (V1 to V77, T and P) or words written out
from spec/30_encoding.md R104 and R105. Then a witness for the hypotheses of every statement. -/

namespace Sys2Proof.Tests

open Sys2Proof.Machine Sys2Proof.Reference

/-! ### Helpers -/

/-- The devices A, B, C and D of the vectors (section 2 of 95_test_vectors.md). -/
def romA : Acc := 0x9E06050403020128
def romB : Acc := 0xC007050403020128
def romC : Acc := 0x7F66554433221119
def romD : Acc := 0x370008020AA95010

/-- A device at power-up. -/
def device (rom : Acc) : Device := Device.fresh rom false []

/-- A host write that takes a pending event; and one that also says the callback failed. -/
def take : HostInput := .write 0x2C 1
def takeFailed : HostInput := .write 0x2C 3

/-- The parameters with the vectors' test values for the open ones. -/
def params : Params := { Config.defaultParams with quirkFamily := 0x19, quirkSleepCmd := 0x1E, tSettle := 0 }

/-- The reset state with devices, answers and host accesses. -/
def machine (ds : List Device) (answers : List Answer) (host : List HostInput) : State :=
  { State.reset with params := params, host := host, bus := { Transport.reset with devices := ds, answers := answers } }

/-- So many answers of the devices on the wire. -/
def wires (n : Nat) : List Answer := List.replicate n .wire

/-- The outcome is a next state with a property. -/
def goesTo (o : Host.Outcome State Fault Refusal) (p : State → Bool) : Bool :=
  match o with
  | .next t => p t
  | _ => false

theorem exists_of_goesTo {o : Host.Outcome State Fault Refusal} {p : State → Bool} (h : goesTo o p = true) :
    ∃ t, o = .next t ∧ p t = true := by
  cases o with
  | next t => exact ⟨t, rfl, h⟩
  | _ => cases h

/-- The transport answers the calls with these replies. -/
def replies : State → List (Call × Reply) → Bool
  | _, [] => true
  | s, (c, r) :: l =>
    match s.ask c with
    | some (r', s') => decide (r' = r) && replies s' l
    | none => false

theorem exists_of_replies {s : State} {l : List (Call × Reply)} (h : replies s l = true) : ∃ t, Answers s l t := by
  induction l generalizing s with
  | nil => exact ⟨s, rfl⟩
  | cons q l ih =>
    obtain ⟨c, r⟩ := q
    simp only [replies] at h
    split at h
    · next r' s' ha =>
      rw [Bool.and_eq_true, decide_eq_true_eq] at h
      obtain ⟨t, ht⟩ := ih h.2
      exact ⟨t, s', by rw [ha, h.1], ht⟩
    · cases h

/-- The routine returned, or failed. -/
def hasReturned : Ending → Bool
  | .returned _ => true
  | _ => false
def hasFailed : Ending → Bool
  | .failed _ => true
  | _ => false

theorem exists_of_hasReturned {e : Ending} (h : hasReturned e = true) : ∃ t, e = .returned t := by
  cases e with
  | returned t => exact ⟨t, rfl⟩
  | _ => cases h

theorem exists_of_hasFailed {e : Ending} (h : hasFailed e = true) : ∃ t, e = .failed t := by
  cases e with
  | failed t => exact ⟨t, rfl⟩
  | _ => cases h

/-! ### Well-formedness: each check of R107 refuses a word that breaks it and no other clause -/

theorem test_wf_high_bits : (CmdFields.mk 3 false false 0 0 1).illegal = some .highBits := by decide
theorem test_wf_reserved_opcode : (CmdFields.mk 12 false false 0 0 0).illegal = some .reservedOpcode := by decide
theorem test_wf_reserved_bits : (CmdFields.mk 3 false false 2 0 0).illegal = some .reservedBits := by decide
theorem test_wf_alarm_unused : (CmdFields.mk 3 true false 0 0 0).illegal = some .alarmUnused := by decide
theorem test_wf_resp_unused : (CmdFields.mk 1 false true 0 0 0).illegal = some .respUnused := by decide
theorem test_wf_fam_unused : (CmdFields.mk 8 false true 0 0x28 0).illegal = some .famUnused := by decide
theorem test_wf_legal : (CmdFields.mk 8 false true 0 0 0).wf = true := by decide

/-! ### Decoding: words written out from R104 (FAM, two reserved bits, R, A, OP) and R105 -/

theorem test_decode_search_pass :
    decode 0b00000000000000000000000000000001 = .ok (.searchPass false 0) := by rfl
theorem test_decode_search_pass_alarm :
    decode 0b00000000000000001111111100010001 = .ok (.searchPass true 0xFF) := by rfl
theorem test_decode_search_all :
    decode 0b00000000000000000010100000000010 = .ok (.searchAll false 0x28) := by rfl
theorem test_decode_read_id : decode 0b00000000000000000000000000000011 = .ok .readId := by rfl
theorem test_decode_match_id : decode 0b00000000000000000000000000000100 = .ok .matchId := by rfl
theorem test_decode_skip : decode 0b00000000000000000000000000000101 = .ok .skip := by rfl
theorem test_decode_resume : decode 0b00000000000000000000000000000110 = .ok .resume := by rfl
theorem test_decode_reset_select : decode 0b00000000000000000000000000000111 = .ok .resetSelect := by rfl
theorem test_decode_write_read : decode 0b00000000000000000000000000001000 = .ok (.writeRead false) := by rfl
theorem test_decode_write_read_resp : decode 0b00000000000000000000000000101000 = .ok (.writeRead true) := by rfl
theorem test_decode_acquire : decode 0b00000000000000000000000000001001 = .ok .acquire := by rfl
theorem test_decode_release : decode 0b00000000000000000000000000001010 = .ok .release := by rfl
theorem test_decode_scan : decode 0b00000000000000000010100000011011 = .ok (.scan true 0x28) := by rfl
/-- V70, V71, V72, V76 -/
theorem test_decode_illegal :
    [0x0000, 0x000C, 0x000D, 0x000E, 0x000F, 0x0043, 0x0083, 0x0013, 0x0018, 0x0024, 0x0021, 0x2803,
      0x00010003].all (fun w => !(decode (BitVec.ofNat 32 w)).isOk) = true := by decide

/-! ### Identifiers, the checksum, the registers' packing -/

/-- V1, V2, V3 -/
theorem test_id_of : (idOf romA).toList = [0x28, 1, 2, 3, 4, 5, 6, 0x9E] := by decide
theorem test_acc_of : accOf ⟨0x19, 0x11, 0x22, 0x33, 0x44, 0x55, 0x66, 0x7F⟩ = romC := by decide
theorem test_be_of : beOf ⟨0x28, 1, 2, 3, 4, 5, 6, 0x9E⟩ = 0x280102030405069E := by decide
/-- V7, V8, V10, V11 -/
theorem test_crc :
    crc8 [0x28, 1, 2, 3, 4, 5, 6] = 0x9E ∧ crc8 [2, 0x1C, 0xB8, 1, 0, 0, 0] = 0xA2 ∧
      crc8 (List.replicate 8 0xFF) = 0xC9 ∧ crc8 [1] = 0x5E ∧ crc8 [0x80] = 0x8C := by decide +kernel
/-- V6 -/
theorem test_id_registers :
    (readWord 0x14 { State.reset with id := idOf romA }).toOption = some 0x03020128 ∧
      (readWord 0x18 { State.reset with id := idOf romA }).toOption = some 0x9E060504 := by decide
/-- P3 step 2 and P2 step 4 -/
theorem test_status_word :
    statusWord { Status.reset with done := true } true .acquired = 0x00001402 ∧
      statusWord { Status.reset with done := true, err := .misuse } false .idle = 0x00000052 := by decide

/-! ### The tie-break (V15 to V18) -/

theorem test_takes_one :
    takesOne 19 0 20 = true ∧ takesOne 20 (setAccBit 0 20 true) 20 = false ∧
      takesOne 64 (setAccBit 0 20 true) 20 = true ∧ takesOne 64 0 20 = false := by decide

/-! ### Operations -/

/-- V20 -/
theorem test_search_all_empty :
    goesTo (exec (.searchAll false 0) (machine [] (wires 1) [])) (fun t =>
      t.trace = [.lock, .call .reset (.presence false), .unlock] ∧ t.ld = 66 ∧ t.count = 0 ∧
        t.status.err = .ok) = true := by decide
/-- V22 -/
theorem test_search_all_two :
    goesTo (exec (.searchAll false 0) (machine [device romA, device romB] (wires 388) [take, take])) (fun t =>
      foundIn t.log = [idOf romB, idOf romA] ∧ t.ld = 65 ∧ t.count = 2 ∧ t.bus.calls = 388 ∧
        t.lockDepth = 0) = true := by decide +kernel
/-- V30: the first read of position 10 fails -/
theorem test_search_pass_fails :
    goesTo (exec (.searchPass false 0) (machine [device romA] (wires 29 ++ [.fail]) [])) (fun t =>
      t.status.err = .busIoFailure ∧ t.ld = 0 ∧ t.acc = 0x128 ∧ t.lockDepth = 0) = true := by decide +kernel
/-- V34 -/
theorem test_search_pass_misuse :
    goesTo (exec (.searchPass false 0) { machine [] [] [] with ld := 65 }) (fun t =>
      t.status.err = .misuse ∧ t.ld = 65 ∧ t.trace = []) = true := by decide
/-- V40: the port calls are those of R160, the checksum port's among them -/
theorem test_read_id :
    goesTo (exec .readId (machine [device romA] (wires 3) [])) (fun t =>
      t.trace = [.lock, .call .reset (.presence true), .call (.writeByte 0x33) .ok,
        .call (.readBlock 8) (.bytes [0x28, 1, 2, 3, 4, 5, 6, 0x9E]),
        .checksum [0x28, 1, 2, 3, 4, 5, 6, 0x9E] 0, .unlock] ∧
        t.id = idOf romA ∧ t.status.err = .ok) = true := by decide +kernel
/-- V42 -/
theorem test_read_id_collision :
    goesTo (exec .readId (machine [device romA, device romB] (wires 3) [])) (fun t =>
      t.id = .zero ∧ t.status.err = .checksumMismatch) = true := by decide +kernel
/-- V45 -/
theorem test_match_id :
    goesTo (exec .matchId { machine [device romA, device romB] (wires 3) [] with id := idOf romB }) (fun t =>
      t.bus.devices.map (fun d => d.st) = [⟨.off, false⟩, ⟨.selected [] 0, true⟩]) = true := by decide +kernel
/-- V49, V50 -/
theorem test_skip :
    goesTo (exec .skip (machine [device romA, device romB] (wires 2) [])) (fun t =>
      t.bus.devices.map (fun d => d.st) = [⟨.selected [] 0, false⟩, ⟨.selected [] 0, false⟩]) = true := by
  decide +kernel
theorem test_skip_no_presence :
    goesTo (exec .skip (machine [] (wires 1) [])) (fun t => t.status.err = .noPresence) = true := by decide
/-- V46, V47 -/
theorem test_resume :
    goesTo (exec .resume (machine [{ device romA with st := ⟨.off, true⟩ }, device romB] (wires 2) [])) (fun t =>
      t.bus.devices.map (fun d => d.st) = [⟨.selected [] 0, true⟩, ⟨.off, false⟩]) = true := by decide +kernel
/-- V51, V52 -/
theorem test_reset_select_one :
    goesTo (exec .resetSelect { machine [device romA] (wires 2) [] with pcount := 1 }) (fun t =>
      t.trace = [.lock, .call .reset (.presence true), .call (.writeByte 0xCC) .ok, .unlock]) = true := by decide
theorem test_reset_select_two :
    goesTo (exec .resetSelect { machine [device romA] (wires 3) [] with pcount := 2, id := idOf romC }) (fun t =>
      t.trace = [.lock, .call .reset (.presence true), .call (.writeByte 0x55) .ok,
        .call (.writeBlock [0x19, 0x11, 0x22, 0x33, 0x44, 0x55, 0x66, 0x7F]) .ok, .unlock]) = true := by decide
/-- V53 -/
theorem test_write_read :
    goesTo (exec (.writeRead true)
      { machine [{ device romA with responses := [([0xBE], [0x50, 0x05])] }, device romB] (wires 5) [] with
        id := idOf romA, pcount := 2, txbuf := [(0, 0xBE)], txlen := 1, rxlen := 2 }) (fun t =>
      t.rxbuf = [(0, 0x50), (1, 0x05)] ∧ t.status.err = .ok ∧ t.lockDepth = 0) = true := by decide +kernel
/-- V57: both brackets are closed -/
theorem test_write_read_select_fails :
    goesTo (exec (.writeRead true) (machine [device romA] [.wire, .fail] [])) (fun t =>
      t.trace = [.lock, .lock, .call .reset (.presence true), .call (.writeByte 0xCC) .fail, .unlock, .unlock] ∧
        t.status.err = .busIoFailure) = true := by decide
/-- V59 -/
theorem test_acquire :
    goesTo (exec .acquire (machine [] (wires 2) [])) (fun t =>
      t.trace = [.lock, .call .resumePower .ok, .settle 0, .call .reset (.presence false), .unlock] ∧
        t.sess = .acquired ∧ t.status.err = .ok) = true := by decide
/-- V62 -/
theorem test_acquire_fails :
    goesTo (exec .acquire (machine [] [.fail] [])) (fun t =>
      t.trace = [.lock, .call .resumePower .fail, .unlock] ∧ t.sess = .idle ∧
        t.status.err = .busIoFailure) = true := by decide
/-- V60 -/
theorem test_release_quirk :
    goesTo (exec .release { machine [device romC] (wires 4) [] with sess := .acquired, quirk := true }) (fun t =>
      t.trace = [.lock, .lock, .call .reset (.presence true), .call (.writeByte 0xCC) .ok, .unlock,
        .call (.writeByte 0x1E) .ok, .call .suspendPower .ok, .unlock] ∧
        t.sess = .idle ∧ t.quirk = false) = true := by decide +kernel
/-- V65 -/
theorem test_release_fails :
    goesTo (exec .release { machine [device romC] [.wire, .wire, .fail, .fail] [] with
      sess := .acquired, quirk := true }) (fun t =>
      t.status.err = .busIoFailure ∧ t.status.wQuirk = true ∧ t.sess = .idle ∧ t.lockDepth = 0) = true := by
  decide +kernel
/-- V60 -/
theorem test_scan :
    goesTo (exec (.scan false 0) { machine [device romC, device romA] (wires 388) [take, take] with
      sess := .acquired }) (fun t =>
      reportedIn t.log = [idOf romC, idOf romA] ∧ t.count = 2 ∧ t.quirk = true ∧ t.scanrec = [] ∧
        t.sess = .acquired) = true := by decide +kernel
/-- V66 -/
theorem test_scan_not_acquired :
    goesTo (exec (.scan false 0) (machine [] [] [])) (fun t =>
      t.status.err = .notAcquired ∧ t.trace = []) = true := by decide

/-! ### Steps -/

/-- P4 step 2, and a read of what was written -/
theorem test_step_host_write :
    goesTo (step (machine [] [] [.write 0x20 7])) (fun t => t.pcount = 7 ∧ t.host = []) = true := by decide
/-- P5 step 1, a word written to `CMD` -/
theorem test_step_command :
    goesTo (step ((machine [] [] []).withFetchWord 16 0x000B)) (fun t =>
      statusWord t.status t.quirk t.sess = 0x00000042) = true := by decide
/-- V77 -/
theorem test_step_busy_write_ignored :
    goesTo (step { machine [] [] [.write 0 5] with
      seq := [.resetAddressed, .unlock, .finish .ok], status := Status.reset.issued }) (fun t =>
      t.seq = [.resetAddressed, .unlock, .finish .ok] ∧ t.host = []) = true := by decide

/-! ### Witnesses: for each statement with hypotheses, a state and operands that meet them, for each clause -/

/-- A state with an operation in flight whose transport is silent. -/
def silent : State :=
  { machine [] [] [] with seq := [.resetAddressed, .unlock, .finish .ok], status := Status.reset.issued, lockDepth := 1 }

theorem witness_encodeOfDecode : decode 3 = .ok .readId := by rfl
/-- Each disjunct of R107, and a word that breaks none. -/
theorem witness_illegalCommandWord :
    (machine [] [] [.write 0 0x0C]).status.busy = false ∧ BreaksR107 0x0 ∧ BreaksR107 0x0C ∧ BreaksR107 0x43 ∧
      BreaksR107 0x13 ∧ BreaksR107 0x21 ∧ BreaksR107 0x2803 ∧ BreaksR107 0x00010003 ∧ ¬BreaksR107 0xFF11 :=
  ⟨rfl, .inl (.inl rfl), .inl (.inr (by decide)), .inr (.inl (by decide)), .inr (.inr (.inl (by decide))),
    .inr (.inr (.inr (.inl (by decide)))), .inr (.inr (.inr (.inr (.inl (by decide))))),
    .inr (.inr (.inr (.inr (.inr (by decide))))), by dsimp only [BreaksR107]; decide⟩
theorem witness_stepRunsTheDecodedCommand :
    (machine [] [] [.write 0 5]).status.busy = false ∧ (machine [] [] [.write 0 5]).host = [.write 0 5] ∧
      decode 5 = .ok .skip := ⟨rfl, rfl, rfl⟩
theorem witness_placedWord : decodeTableWord 16 0x281B = some (.scan true 0x28) := by rfl
theorem witness_hostAccessWhileBusy_write :
    silent.status.busy = true ∧ transact { silent with host := [.write 0 5] } = .waiting := ⟨rfl, rfl⟩
theorem witness_hostAccessWhileBusy_read :
    transact { silent with host := [.read 0x04] } = .waiting ∧
      readWord 0x04 { silent with host := [.read 0x04] } = .ok 1 ∧
      transact { silent with host := [.readByte 0x100], txbuf := [(0, 7)] } = .waiting ∧
      readByteAt 0x100 { silent with host := [.readByte 0x100], txbuf := [(0, 7)] } = .ok 7 := ⟨rfl, rfl, rfl, rfl⟩
theorem witness_hostAccessWhileBusy_take :
    ({ silent with seq := [.awaitFound, .unlock, .finish .ok], host := [take] }).status.busy = true ∧
      ({ silent with seq := [.awaitReport .ok []], host := [takeFailed] }).status.busy = true ∧
      (1 : Word).getLsbD 0 = true ∧ (3 : Word).getLsbD 0 = true ∧ (3 : Word).getLsbD 1 = true := by decide
/-- Also for each offset, and a read-back. -/
theorem witness_registerWriteThenRead :
    (machine [] [] [.write 0x24 0xFFFFFFFF]).status.busy = false ∧ (0x24, 9) ∈ readWriteRegisters ∧
      goesTo (step (machine [] [] [.write 0x24 0xFFFFFFFF])) (fun t => t.txlen = 511) = true := by decide
/-- A word register, and a byte of each buffer that has one. -/
theorem witness_hostReadWhileIdle :
    (0x04, (0 : Word)) ∈ registerValues (machine [] [] [.read 0x04]) ∧
      ({ machine [] [] [.readByte (0x100 + 255)] with txbuf := [(255, 7)] }).txbuf.read? 255 = some 7 ∧
      ({ machine [] [] [.readByte (0x200 + 0)] with rxbuf := [(0, 7)] }).rxbuf.read? 0 = some 7 := by decide
theorem witness_txBufferWriteThenRead :
    (machine [] [] [.writeByte (0x100 + 255) 7]).status.busy = false ∧
      (machine [] [] [.writeByte (0x100 + 255) 7]).txbuf.wf = true := by decide
theorem witness_unwrittenBufferByte :
    State.reset.txbuf.read? (0x1FF - 0x100) = none ∧ State.reset.rxbuf.read? (0x200 - 0x200) = none := by decide
theorem witness_hardwareReset :
    (machine [] [] [.hardReset]).status.busy = false ∧ transact { silent with host := [.hardReset] } = .waiting :=
  ⟨rfl, rfl⟩

/-- The reset state with any transport and host is consistent. -/
theorem machine_consistent (ds : List Device) (answers : List Answer) (host : List HostInput) :
    (machine ds answers host).Consistent where
  busy := rfl
  inFlight h := by cases h
  sequenced := .inl rfl
  positions := rfl
  balanced := rfl
  exclusive h := absurd rfl h
  session := rfl
  collecting h := by cases h
  acquiring h := by cases h
  record _ := rfl
  quirk _ := rfl
  emptied _ _ := rfl
  cleared _ _ := rfl
  found := rfl
  report := rfl
  buffers := ⟨rfl, rfl⟩

/-- Also for the balance of the lock, and for the output. -/
theorem witness_everyStep :
    (machine [device romA] (wires 2) [.write 0 5]).Consistent ∧
      ∃ t, step (machine [device romA] (wires 2) [.write 0 5]) = .next t ∧ t.status.done = true :=
  ⟨machine_consistent .., exists_of_goesTo (p := fun t => t.status.done) (by decide +kernel)⟩
theorem witness_callsTheEngineNeverMakes :
    ∃ t l, exec .acquire (machine [] (wires 2) []) = .next t ∧ Gained (machine [] (wires 2) []) t l ∧
      l.any isResumePower = true := by
  obtain ⟨t, h, hp⟩ := exists_of_goesTo (o := exec .acquire (machine [] (wires 2) []))
    (p := fun t => t.log.any isResumePower) (by decide)
  exact ⟨t, t.log, h, (List.append_nil _).symm, hp⟩
theorem witness_nextStep :
    ({ silent with bus := { silent.bus with answers := [.fail] } }).seq ≠ [] ∧
      ({ silent with bus := { silent.bus with answers := [.fail] } }).lockFree = true ∧
      awaitsFound silent.seq = false ∧ awaitsReport silent.seq = false := by decide
theorem witness_lockHeldElsewhere :
    (machine [] [] []).otherLocks.lockFree = false ∧
      goesTo (exec .skip (machine [] [] []).otherLocks) (fun t => t.status.busy) = true ∧
      goesTo (exec .release (machine [] [] []).otherLocks) (fun t => t.status.done) = true := by decide
theorem witness_countOverflow :
    ({ silent with seq := [.afterPass 0xF0 .emit], ld := 64 }).ld ≠ 66 ∧
      (0xFFFFFFFF : BitVec 32).toNat = 2 ^ 32 - 1 ∧ (0xFFFFFFFE : BitVec 32).toNat < 2 ^ 32 - 1 := by decide
/-- An operation waiting for an answer, for the lock, for the host; and one that a step has resumed. -/
theorem witness_waitingOperationIsResumed :
    (goesTo (exec .skip (machine [device romA] (wires 1) [])) (fun t =>
        t.status.busy ∧ transact (t.supply (wires 1)) ≠ .waiting) &&
      goesTo (exec .skip (machine [device romA] [] []).otherLocks) (fun t =>
        t.status.busy ∧ transact t.otherUnlocks ≠ .waiting) &&
      goesTo (exec (.searchAll false 0) (machine [device romA] (wires 194) [])) (fun t =>
        t.status.busy ∧ transact (t.queueHost [take]) ≠ .waiting ∧ transact (t.queueHost [.read 4]) = .waiting) &&
      goesTo (step { silent with bus := { silent.bus with devices := [device romA], answers := [.wire] }, seq :=
        [.resetAddressed, .writeByte 0xCC, .unlock, .finish .ok] }) (fun t => t.status.busy)) = true := by
  decide +kernel
theorem witness_referenceChecksum : params.checksum = .reference := rfl
/-- A record with room, a full one, and blocks one byte too long. -/
theorem witness_capacities :
    let p := { params with scanCap := some 1, txMax := some 0, rxMax := some 2 }
    fits p.scanCap (0 + 1) ∧ ¬fits p.scanCap (1 + 1) ∧ ¬fits p.txMax 1 ∧ fits p.txMax 0 ∧ ¬fits p.rxMax 3 ∧
      fits params.scanCap 1000 := by
  simp [fits, params, Config.defaultParams]
/-- V60 with room for one identifier only. -/
theorem test_scan_record_full :
    (match exec (.scan false 0) { machine [device romC, device romA] (wires 388) [] with
        sess := .acquired, params := { params with scanCap := some 1 } } with
      | .refused r => decide (r = .scanRecordFull)
      | _ => false) = true := by decide +kernel

/-! Addressing -/

theorem witness_readId :
    (machine [] [] []).lockFree = true ∧
      ∃ t, Answers (opened (machine [device romA] (wires 3) []))
        [(.reset, .presence true), (.writeByte 0x33, .ok), (.readBlock 8, .bytes (idOf romA).toList)] t :=
  ⟨rfl, exists_of_replies (by decide +kernel)⟩
/-- Every list of failures is met by some state: the first, and those that fail at each call. -/
theorem witness_failures :
    (replies (opened (machine [] (wires 1) [])) [(.reset, .presence false)] &&
      replies (opened (machine [device romA] [.fail] [])) [(.reset, .fail)] &&
      replies (opened (machine [device romA] [.wire, .fail] [])) [(.reset, .presence true), (.writeByte 0x33, .fail)] &&
      replies (opened (machine [device romA] [.wire, .wire, .fail] []))
        [(.reset, .presence true), (.writeByte 0x33, .ok), (.readBlock 8, .fail)]) = true ∧
      failures [(.reset, .presence true), (.writeByte 0x33, .ok), (.readBlock 8, .ok)] =
        [([(.reset, .presence false)], .noPresence), ([(.reset, .fail)], .busIoFailure),
          ([(.reset, .presence true), (.writeByte 0x33, .fail)], .busIoFailure),
          ([(.reset, .presence true), (.writeByte 0x33, .ok), (.readBlock 8, .fail)], .busIoFailure)] := by
  decide +kernel
theorem witness_matchId :
    ∃ t, Answers (opened (machine [device romA] (wires 3) []))
      [(.reset, .presence true), (.writeByte 0x55, .ok), (.writeBlock (machine [] [] []).id.toList, .ok)] t :=
  exists_of_replies (by decide +kernel)
theorem witness_skip :
    ∃ t, Answers (opened (machine [device romA] (wires 2) [])) [(.reset, .presence true), (.writeByte 0xCC, .ok)] t :=
  exists_of_replies (by decide +kernel)
theorem witness_resume :
    ∃ t, Answers (opened (machine [device romA] (wires 2) [])) [(.reset, .presence true), (.writeByte 0xA5, .ok)] t :=
  exists_of_replies (by decide +kernel)
/-- Two peripherals, one, and the calls of each choice. -/
theorem witness_resetSelect :
    (2 : BitVec 32).toNat > 1 ∧ (1 : BitVec 32).toNat ≤ 1 ∧
      (∃ t, Answers (opened { machine [device romA] (wires 3) [] with pcount := 2 })
        (selectCalls { machine [device romA] (wires 3) [] with pcount := 2 }) t) ∧
      ∃ t, Answers (opened (machine [device romA] (wires 3) [])) (selectCalls (machine [device romA] (wires 3) [])) t :=
  ⟨by decide, by decide, exists_of_replies (by decide +kernel), exists_of_replies (by decide +kernel)⟩

/-- A WRITE_READ of one byte out and two in, by SKIP. -/
def transfer (answers : List Answer) : State :=
  { machine [device romA] answers [] with txbuf := [(0, 0x44)], txlen := 1, rxlen := 2 }

theorem witness_writeRead_select :
    (transfer []).lockFree = true ∧ (∀ cap n, cap = none → fits cap n) ∧ (transfer []).params.txMax = none ∧
      (transfer []).params.rxMax = none ∧ [(0x44 : Byte)].length = (transfer []).txlen ∧
      (∀ k, k < (transfer []).txlen → (transfer []).txbuf.read? k = [(0x44 : Byte)][k]?) ∧
      (transfer []).rxbuf.wf = true ∧
      (∃ u, Answers (opened (transfer (wires 4))).locked (selectCalls (transfer (wires 4))) u) ∧
      ∃ u, Answers (opened (transfer [.wire, .fail])).locked [(.reset, .presence true), (.writeByte 0xCC, .fail)] u :=
  ⟨rfl, fun _ _ h _ hc => (by rw [h] at hc; cases hc), rfl, rfl, rfl, by decide, rfl, exists_of_replies (by decide +kernel),
    exists_of_replies (by decide +kernel)⟩
/-- The calls after the select step: all answered, the write failed, the read failed. -/
theorem witness_writeRead_transfer :
    (replies (transfer [.wire, .value [0x50, 5]]) [(.writeBlock [0x44], .ok), (.readBlock 2, .bytes [0x50, 5])] &&
      replies (transfer [.fail]) [(.writeBlock [0x44], .fail)] &&
      replies (transfer [.wire, .fail]) [(.writeBlock [0x44], .ok), (.readBlock 2, .fail)]) = true := by
  decide +kernel
theorem witness_writeReadFaults :
    (1 < 2 ∧ ({ transfer (wires 2) with txlen := 2 }).txbuf.read? 1 = none) ∧
      ∃ u, Answers (opened { transfer (wires 2) with txlen := 2 }).locked
        (selectCalls { transfer (wires 2) with txlen := 2 }) u :=
  ⟨by decide, exists_of_replies (by decide +kernel)⟩
theorem witness_addressingFrame :
    isAddressing (.writeRead true) = true ∧ (transfer (wires 4)).rxbuf.wf = true ∧
      ∃ t, exec (.writeRead true) (transfer (wires 4)) = .next t ∧ t.status.done = true :=
  ⟨rfl, rfl, exists_of_goesTo (p := fun t => t.status.done) (by decide +kernel)⟩
theorem witness_addressingSelectsDevices :
    let s := { State.reset with bus := { Transport.reset with devices := [device romA], answers := wires 3 } }
    s.lockFree = true ∧ distinctCommands s.params ∧ s.bus.devices ≠ [] ∧
      s.bus.answers = .wire :: .wire :: .wire :: [] ∧ s.bus.answers = .wire :: .wire :: wires 1 :=
  ⟨rfl, by dsimp only [distinctCommands, State.reset, Config.defaultParams]; decide, List.cons_ne_nil _ _, rfl, rfl⟩

/-! Search -/

theorem witness_searchPass :
    (machine [] [] []).ld.toNat ≤ 64 ∧
      (∃ t, onePass 0xF0 (opened (machine [device romA] (wires 194) [])) = .returned t) ∧
      (∃ t, onePass 0xF0 (opened (machine [device romA] (wires 193 ++ [.fail]) [])) = .failed t) ∧
      (65 : Discrepancy).toNat > 64 :=
  ⟨by decide, exists_of_hasReturned (by decide +kernel), exists_of_hasFailed (by decide +kernel), by decide⟩

/-- A pass at position 20 that has read a true bit `b`, the complement to be `c`. -/
def pair (ld : Discrepancy) (acc : Acc) (b : Bool) (c : Byte) : State :=
  { machine [] [.value [c]] [] with ld := ld, acc := acc, seq := [.passComplement 20 65 b, .unlock, .finish .ok] }

/-- Each row of the table, at the boundary of its range. -/
theorem witness_pairDecidesTheDirection :
    (∃ s', (pair 19 0 true 1).ask .readBit = some (.bit true, s')) ∧
      (∃ s', (pair 19 0 true 0).ask .readBit = some (.bit false, s')) ∧
      (20 > (19 : Discrepancy).toNat) ∧ (20 < (21 : Discrepancy).toNat) ∧ (20 = (20 : Discrepancy).toNat) ∧
      (pair 21 (setAccBit 0 20 true) false 0).acc.getLsbD (20 - 1) = true ∧
      (pair 21 0 false 0).acc.getLsbD (20 - 1) = false :=
  ⟨⟨_, rfl⟩, ⟨_, rfl⟩, by decide, by decide, by decide, by decide, by decide⟩
/-- A pass that ends `LastDevice`, and one that ends at a position. -/
theorem witness_passResultFacts :
    (goesTo (exec (.searchPass false 0) (machine [device romA] (wires 194) [])) (fun t =>
        !t.status.busy ∧ t.status.err = .ok ∧ t.ld = 65) &&
      goesTo (exec (.searchPass false 0) (machine [device romA, device romB] (wires 194) [])) (fun t =>
        !t.status.busy ∧ t.status.err = .ok ∧ t.ld = 49)) = true := by decide +kernel
theorem witness_passAlwaysTerminates :
    (machine [] (List.replicate 194 .fail) []).lockFree = true ∧
      194 ≤ (machine [] (List.replicate 194 .fail) []).bus.answers.length := ⟨rfl, by decide +kernel⟩
theorem witness_agreedPass :
    (machine [] (agreedAnswers romA ++ []) []).ld.toNat ≤ 64 ∧ ({ machine [] [] [] with ld := 64 }).ld.toNat ≤ 64 ∧
      (machine [] (agreedAnswers romA ++ []) []).lockFree = true := by decide +kernel
theorem witness_searchAll :
    (∃ t, search 0xF0 .emit 2 (fresh (opened (machine [device romA, device romB] (wires 388) [take, take]))) =
        .returned t) ∧
      ∃ t, search 0xF0 .emit 2 (fresh (opened (machine [device romA, device romB] (wires 200 ++ [.fail]) [take]))) =
        .failed t :=
  ⟨exists_of_hasReturned (by decide +kernel), exists_of_hasFailed (by decide +kernel)⟩
theorem witness_searchAllOnAnEmptyBus :
    ∃ t, Answers (fresh (opened (machine [] (wires 1) []))) [(.reset, .presence false)] t :=
  exists_of_replies (by decide)
theorem witness_searchFrame :
    (∃ t, exec (.searchPass false 0) (machine [device romA] (wires 194) []) = .next t ∧ t.status.done = true) ∧
      ∃ t, exec (.searchAll false 0) (machine [device romA] (wires 194) [take]) = .next t ∧ t.status.done = true :=
  ⟨exists_of_goesTo (p := fun t => t.status.done) (by decide +kernel),
    exists_of_goesTo (p := fun t => t.status.done) (by decide +kernel)⟩
/-- One that takes part in an alarm search too, and one that does not. -/
theorem witness_singleDevice :
    let s := machine [Device.fresh romA true []] (List.replicate 194 .wire ++ []) [.write 0x2C 1]
    let s' := machine [device romA] (List.replicate 4 .wire ++ []) []
    s.lockFree = true ∧ s.bus.devices = [Device.fresh romA true []] ∧ s.host = [.write 0x2C 1] ∧
      (1 : Word).getLsbD 0 = true ∧ s.params.cmdAlarmSearch ≠ s.params.cmdSearchRom ∧
      (Device.fresh romA true []).alarm = true ∧ s'.bus.devices = [device romA] ∧ (device romA).alarm = false :=
  ⟨rfl, rfl, rfl, by decide, by decide, rfl, rfl, rfl⟩
/-- Both ends of the range of the position. -/
theorem witness_twoDevices :
    accBit (setAccBit 0 1 true) 1 = true ∧ accBit (setAccBit 0 64 true) 64 = true ∧ (machine [] [] []).ld = 0 ∧
      (machine [device 0, device 1] (List.replicate 388 .wire ++ []) []).bus.devices = [device 0, device 1] ∧
      (0 : Acc) = setAccBit 1 1 false := by
  refine ⟨by decide, by decide, rfl, rfl, by decide⟩
/-- A normal search of two, an alarm search of one of two, an alarm search of none. -/
theorem witness_enumerationCompleteness :
    let s := machine [device romA, Device.fresh romB true []] (List.replicate (194 * 2) .wire ++ [])
      (List.replicate 2 (.write 0x2C 1) ++ [])
    s.lockFree = true ∧ s.params.cmdAlarmSearch ≠ s.params.cmdSearchRom ∧
      (s.bus.devices.filter fun d => !false || d.alarm).length = 2 ∧
      ((s.bus.devices.filter fun d => !false || d.alarm).map fun d => d.rom).Nodup ∧
      (s.bus.devices.filter fun d => !true || d.alarm) = [Device.fresh romB true []] ∧
      ([device romA].filter fun d => !true || d.alarm) = [] := by decide
/-- One sequence of answers, evaluated here for up to three passes: a pair (0, 0) at position 64 in every other
pass, at position 2 in the others. -/
def endless (k : Nat) : Answer :=
  let j := k % 388
  let zero (pos : Nat) (start : Nat) : Bool := start + 2 + 3 * (pos - 1) ≤ j && j < start + 2 + 3 * (pos - 1) + 2
  if j = 0 ∨ j = 194 then .value [1]
  else if zero 2 0 ∨ zero 64 194 then .value [0]
  else if 194 ≤ j then .value [if (j - 196) % 3 = 0 then 1 else 0]
  else .value [if (j - 2) % 3 = 0 then 1 else 0]

theorem witness_searchAllNeedNotEnd :
    (machine [] [] []).lockFree = true ∧ 3 < 2 ^ 32 ∧
      goesTo (exec (.searchAll false 0) (machine [] ((List.range (194 * 3)).map endless) [take, take, take])) (fun t =>
        t.status.busy ∧ t.count = 3 ∧ t.host = [] ∧ t.bus.answers = [] ∧ t.ld ≠ 65 ∧
          t.seq = [.passReset 0xF0 (some .emit), .unlock, .finish .ok]) = true := by
  decide +kernel

/-! Session -/

theorem witness_acquire :
    (machine [] [] []).lockFree = true ∧ (machine [] [] []).sess = .idle ∧
      (∃ u, Answers (opened (machine [] (wires 2) [])) [(.resumePower, .ok)] u) ∧
      (∃ t, Answers (machine [] (wires 1) []) [(.reset, .presence false)] t) ∧
      (∃ t, Answers (machine [] [.fail] []) [(.reset, .fail)] t) ∧
      ∃ t, Answers (opened (machine [] [.fail] [])) [(.resumePower, .fail)] t :=
  ⟨rfl, rfl, exists_of_replies (by decide), exists_of_replies (by decide), exists_of_replies (by decide),
    exists_of_replies (by decide)⟩
/-- Without the quirk, and with it: answered, and failed. -/
theorem witness_release :
    (∃ u t, quirkPart (opened { machine [] (wires 1) [] with sess := .released }) = some u ∧
        u.ask .suspendPower = some (.ok, t)) ∧
      ∃ u t, quirkPart (opened { machine [] [.fail, .fail] [] with sess := .released, quirk := true }) = some u ∧
        u.ask .suspendPower = some (.fail, t) :=
  ⟨⟨_, _, rfl, rfl⟩, ⟨_, _, rfl, rfl⟩⟩
/-- Also the refusals of ACQUIRE, RELEASE and SCAN. -/
theorem witness_sessionMisuse :
    (machine [] [] []).sess ≠ .acquired ∧ ({ machine [] [] [] with sess := .acquired }).sess ≠ .idle := by decide

/-- A SCAN's search phase from its fresh cursor. -/
def scanning (s : State) : State := fresh (opened { s with sess := .scanning, quirk := false, scanrec := [] })

/-- The search returns and its two identifiers are reported; the search fails after one, which is reported. -/
theorem witness_scan :
    (match search 0xF0 .collect 2 (scanning (machine [device romC, device romA] (wires 388) [take, takeFailed])) with
      | .returned t => (reported t.scanrec t.unlocked).isSome
      | _ => false) = true ∧
    (match search 0xF0 .collect 2 (scanning (machine [device romC, device romA] (wires 200 ++ [.fail]) [take])) with
      | .failed t => (reported t.scanrec t.unlocked).isSome
      | _ => false) = true := by decide +kernel
theorem witness_scanReports :
    ∃ t, exec (.scan false 0) { machine [device romC] (wires 194) [take] with sess := .acquired } = .next t ∧
      (!t.status.busy && decide (reportedIn t.log = [idOf romC])) = true :=
  exists_of_goesTo (p := fun t => !t.status.busy && decide (reportedIn t.log = [idOf romC])) (by decide +kernel)
theorem witness_sessionFrame :
    (∃ t, exec .acquire (machine [] (wires 2) []) = .next t ∧ t.status.done = true) ∧
      ∃ t, exec .release { machine [] (wires 1) [] with sess := .acquired } = .next t ∧ t.status.done = true :=
  ⟨exists_of_goesTo (p := fun t => t.status.done) (by decide),
    exists_of_goesTo (p := fun t => t.status.done) (by decide)⟩
/-- The session in flight, and at its end. -/
theorem witness_sessionTransitions :
    (goesTo (exec (.scan false 0) { machine [] [] [] with sess := .acquired }) (fun t => t.sess = .scanning) &&
      goesTo (exec .release { machine [] [] [] with sess := .acquired }) (fun t => t.sess = .released) &&
      goesTo (exec .release { machine [] (wires 1) [] with sess := .acquired }) (fun t => t.sess = .idle)) = true := by
  decide
/-- An error of READ_ID, and a warning of RELEASE. -/
theorem witness_errorsAndWarnings :
    (goesTo (exec .readId (machine [] (wires 1) [])) (fun t => !t.status.busy ∧ t.status.err = .noPresence) &&
      goesTo (exec .release { machine [] (wires 2) [] with sess := .acquired, quirk := true }) (fun t =>
        t.status.wQuirk ∧ Event.warn .quirk ∈ t.log)) = true := by decide
theorem witness_statusWhileInFlight :
    goesTo (exec .skip (machine [] [] [])) (fun t => t.status.busy) = true := by decide

end Sys2Proof.Tests
end

section
/-! PROOFS. The statements of spec/00_scope.md: what the output holds of a step (R16, R69), and the capacities (R8). -/

namespace Sys2Proof.Machine

/-! ### What one step of the sequencer does to the output and the transport

It adds at most one entry: of a transport call, which used up an answer, or of something that left the transport
alone. -/

/-- The output and the transport of `t` against those of `s`, one step of the sequencer later. -/
inductive OutputStep (s t : State) : Prop
  | silent (bus : t.bus = s.bus) (log : t.log = s.log)
  | noted (e : Event) (notCall : isCall e = false) (bus : t.bus = s.bus) (log : t.log = e :: s.log)
  | called (c : Call) (r : Reply) (s' : State) (ask : s.ask c = some (r, s')) (bus : t.bus = s'.bus)
      (log : t.log = s'.log)

/-- A guarded call is in the output, if what goes on with its reply adds nothing. -/
theorem State.askOr_outputStep {s t : State} {c : Call} {k : List UOp} {go : Reply → State → Progress}
    (hgo : ∀ r s', go r s' = .moved t → t.bus = s'.bus ∧ t.log = s'.log)
    (h : s.askOr c k go = .moved t) : OutputStep s t := by
  rcases State.askOr_cases s c k go with ⟨-, h'⟩ | ⟨s', ha, h'⟩ | ⟨r, s', -, ha, h'⟩ <;> rw [h'] at h
  · cases h
  · cases h
    exact .called c .fail s' ha rfl rfl
  · obtain ⟨hb, hl⟩ := hgo r s' h
    exact .called c r s' ha hb hl

/-- A guarded call after whose reply only the sequencer changes. -/
theorem State.askOr_goto_outputStep {s t : State} {c : Call} {k : List UOp} {j : Reply → State → List UOp}
    (h : (s.askOr c k fun r s' => .moved (s'.goto (j r s'))) = .moved t) : OutputStep s t :=
  State.askOr_outputStep (fun r s' hg => by cases hg; exact ⟨rfl, rfl⟩) h

/-- Every step of the sequencer. -/
theorem transact_outputStep {s t : State} (h : transact s = .moved t) : OutputStep s t := by
  rcases hs : s.seq with _ | ⟨u, k⟩
  · simp [transact, hs] at h
  cases u <;> simp only [transact, hs] at h
  case lock =>
    simp only [stepLock] at h
    split at h <;> cases h
    exact .noted .lock rfl rfl rfl
  case unlock => cases h; exact .noted .unlock rfl rfl rfl
  case settle | emitFound | emitReport => cases h; exact .noted _ rfl rfl rfl
  case reportFailed => cases h; exact .noted (.warn .callback) rfl rfl rfl
  case checksum =>
    simp only [stepChecksum] at h
    split at h <;> cases h <;> exact .noted _ rfl rfl rfl
  case quirkCatch =>
    simp only [stepQuirkCatch] at h
    split at h <;> cases h
    · exact .noted (.warn .quirk) rfl rfl rfl
    · exact .silent rfl rfl
  case set u => cases h; exact .silent (State.apply_bus s u) (State.apply_log s u)
  case select | beginRelease | released | idle | beginScan | scanQuirk | scanRecord | scanCatch | scanEnd | finish =>
    cases h; exact .silent rfl rfl
  case quirkStep | afterPass | loopTest | countUp | append =>
    simp only [stepQuirkStep, stepAfterPass, stepLoopTest, stepCountUp, stepAppend] at h
    split at h <;> cases h <;> exact .silent rfl rfl
  case report e todo => cases todo <;> cases h <;> exact .silent rfl rfl
  case awaitFound | awaitReport =>
    simp only [stepAwaitFound, stepAwaitReport] at h
    split at h
    · cases h
    · split at h <;> cases h
      exact .silent rfl rfl
  case writeTx =>
    simp only [stepWriteTx] at h
    split at h
    · cases h
    · exact State.askOr_goto_outputStep h
  case resetAddressed | passReset =>
    refine State.askOr_outputStep (fun r s' hg => ?_) h
    split at hg <;> cases hg <;> exact ⟨rfl, rfl⟩
  case passComplement =>
    refine State.askOr_outputStep (fun r s' hg => ?_) h
    repeat' split at hg
    all_goals cases hg; exact ⟨rfl, rfl⟩
  case resetIgnored | writeByte | writeId | readId | readRx | resumePower | suspendPower | passCommand | passTrue
      | passWrite => exact State.askOr_goto_outputStep h

/-! ### Calls accounted for, over any number of steps -/

/-- The output of `t` is that of `s` with entries put before it, the transport calls among them being as many as
the answers used up, and those the first ones of `s` (R16, R69). -/
def CallsAccounted (s t : State) : Prop :=
  ∃ l, Gained s t l ∧ t.bus.answers = s.bus.answers.drop (l.countP isCall) ∧
    l.countP isCall ≤ s.bus.answers.length ∧ t.bus.calls = s.bus.calls + l.countP isCall

/-- Nothing done at the transport, and no entry of a call. -/
theorem CallsAccounted.of_bus_eq {s t : State} {l : List Event} (hbus : t.bus = s.bus) (hlog : t.log = l ++ s.log)
    (hl : l.countP isCall = 0) : CallsAccounted s t :=
  ⟨l, hlog, by simp [hl, hbus], by simp [hl], by simp [hl, hbus]⟩

/-- Nothing done at the transport, and nothing put in the output. -/
theorem CallsAccounted.of_eq {s t : State} (hbus : t.bus = s.bus) (hlog : t.log = s.log) : CallsAccounted s t :=
  .of_bus_eq (l := []) hbus hlog rfl

theorem CallsAccounted.refl (s : State) : CallsAccounted s s := .of_eq rfl rfl

theorem CallsAccounted.trans {s t u : State} (h₁ : CallsAccounted s t) (h₂ : CallsAccounted t u) :
    CallsAccounted s u := by
  obtain ⟨l₁, hg₁, ha₁, hn₁, hc₁⟩ := h₁
  obtain ⟨l₂, hg₂, ha₂, hn₂, hc₂⟩ := h₂
  rw [ha₁, List.length_drop] at hn₂
  refine ⟨l₂ ++ l₁, hg₂.trans ?_, ?_, ?_, ?_⟩
  · rw [hg₁, List.append_assoc]
  · rw [ha₂, ha₁, List.drop_drop, List.countP_append, Nat.add_comm]
  · rw [List.countP_append]; omega
  · rw [List.countP_append]; omega

/-- One transport call. -/
theorem CallsAccounted.of_ask {s s' : State} {c : Call} {r : Reply} (h : s.ask c = some (r, s')) :
    CallsAccounted s s' := by
  obtain ⟨b, hb, rfl⟩ := State.ask_some h
  obtain ⟨a, rest, ha, -, hrest, hcalls, -⟩ := Transport.call_some hb
  exact ⟨[.call c r], rfl, by simp [isCall, ha, hrest], by simp [isCall, ha], by simp [isCall, hcalls]⟩

/-- One step of the sequencer. -/
theorem OutputStep.callsAccounted {s t : State} (h : OutputStep s t) : CallsAccounted s t := by
  cases h with
  | silent hb hl => exact .of_eq hb hl
  | noted e he hb hl => exact .of_bus_eq (l := [e]) hb hl (by simp [he])
  | called c r s' ha hb hl => exact (CallsAccounted.of_ask ha).trans (.of_eq hb hl)

/-- Running on. -/
theorem run_callsAccounted {s t : State} (h : run s = .next t) : CallsAccounted s t :=
  (run_induct (P := CallsAccounted s) (fun _ _ hp hm => hp.trans (transact_outputStep hm).callsAccounted)
    (.refl s) h).1

/-! ### An operation, and the host's accesses -/

/-- All an operation with a next state can do: it was issued as a program and run on, or it was rejected before its
first bus call. -/
theorem exec_next_cases {i : Instr} {s t : State} (h : exec i s = .next t) :
    (∃ prog, start prog s = .next t) ∨ ∃ e, t = s.reject e := by
  cases i <;> simp only [exec] at h
  case searchPass | acquire | release | scan =>
    simp only [execSearchPass, execAcquire, execRelease, execScan] at h
    split at h
    · exact .inl ⟨_, h⟩
    · cases h; exact .inr ⟨_, rfl⟩
  case writeRead =>
    simp only [execWriteRead] at h
    split at h
    · cases h
    · split at h
      · cases h
      · exact .inl ⟨_, h⟩
  case searchAll | readId | matchId | skip | resume | resetSelect => exact .inl ⟨_, h⟩

theorem exec_callsAccounted {i : Instr} {s t : State} (h : exec i s = .next t) : CallsAccounted s t := by
  rcases exec_next_cases h with ⟨prog, h⟩ | ⟨e, rfl⟩
  · exact (CallsAccounted.of_eq (State.issue_bus s prog) (State.issue_log s prog)).trans (run_callsAccounted h)
  · exact .of_eq rfl rfl

theorem command_callsAccounted {w : Word} {s t : State} (h : command w s = .next t) : CallsAccounted s t := by
  unfold command at h
  split at h
  · exact exec_callsAccounted h
  · cases h
    exact .of_eq rfl rfl

/-- A host write of a word register leaves the transport and the output alone. -/
theorem writeWord_bus_log {off : Nat} {v : Word} {s t : State} (h : writeWord off v s = .ok t) :
    t.bus = s.bus ∧ t.log = s.log := by
  unfold writeWord at h
  split at h <;> cases h <;> exact ⟨rfl, rfl⟩

/-- A host write of a byte of a buffer leaves the transport and the output alone. -/
theorem writeByteAt_bus_log {off : Nat} {v : Byte} {s t : State} (h : writeByteAt off v s = .ok t) :
    t.bus = s.bus ∧ t.log = s.log := by
  unfold writeByteAt at h
  split at h
  · cases h; exact ⟨rfl, rfl⟩
  · split at h <;> cases h

theorem hostWrite_eq_next {r : Except Fault State} {t : State} (h : hostWrite r = .next t) : r = .ok t := by
  cases r <;> cases h
  rfl

/-- A host read with a next state had a value, and that value is what the output gained. -/
theorem hostRead_eq_next {off : Nat} {value : Except Fault Word} {s t : State} (h : hostRead off value s = .next t) :
    ∃ v, value = .ok v ∧ t = s.record (.hostRead off v) := by
  cases value <;> cases h
  exact ⟨_, rfl, rfl⟩

theorem hostRead_callsAccounted {off : Nat} {value : Except Fault Word} {s t : State}
    (h : hostRead off value s = .next t) : CallsAccounted s t := by
  obtain ⟨v, -, rfl⟩ := hostRead_eq_next h
  exact .of_bus_eq (l := [.hostRead off v]) rfl rfl rfl

theorem hostIdle_callsAccounted {a : HostInput} {s t : State} (h : hostIdle a s = .next t) : CallsAccounted s t := by
  cases a <;> simp only [hostIdle] at h
  case write =>
    split at h
    · exact command_callsAccounted h
    · obtain ⟨hb, hl⟩ := writeWord_bus_log (hostWrite_eq_next h)
      exact .of_eq hb hl
  case writeByte =>
    obtain ⟨hb, hl⟩ := writeByteAt_bus_log (hostWrite_eq_next h)
    exact .of_eq hb hl
  case read | readByte => exact hostRead_callsAccounted h
  case hardReset => cases h; exact .of_eq rfl rfl

theorem hostBusy_callsAccounted {a : HostInput} {s t : State} (h : hostBusy a s = .next t) : CallsAccounted s t := by
  cases a <;> simp only [hostBusy] at h
  case write | writeByte => cases h; exact .refl s
  case read | readByte => exact hostRead_callsAccounted h
  case hardReset => cases h

/-- All a step with a next state can do: run on, serve the host's next access, or, with none, nothing. -/
theorem step_next_cases {s t : State} (h : step s = .next t) :
    (s.status.busy = true ∧ transact s ≠ .waiting ∧ run s = .next t) ∨
    (s.status.busy = true ∧ transact s = .waiting ∧
      ∃ a rest, s.host = a :: rest ∧ hostBusy a { s with host := rest } = .next t) ∨
    (s.status.busy = false ∧ ∃ a rest, s.host = a :: rest ∧ hostIdle a { s with host := rest } = .next t) ∨
    ((s.status.busy = true → transact s = .waiting) ∧ s.host = [] ∧ t = s) := by
  unfold step at h
  split at h
  · next hb =>
    split at h
    · next hw =>
      split at h
      · next hh => cases h; exact .inr (.inr (.inr ⟨fun _ => hw, hh, rfl⟩))
      · next a rest hh => exact .inr (.inl ⟨hb, hw, a, rest, hh, h⟩)
    · next hw => exact .inl ⟨hb, hw, h⟩
  · next hb =>
    have hb : s.status.busy = false := by simpa using hb
    split at h
    · next hh => cases h; exact .inr (.inr (.inr ⟨by simp [hb], hh, rfl⟩))
    · next a rest hh => exact .inr (.inr (.inl ⟨hb, a, rest, hh, h⟩))

/-- Every step of the machine. Taking an access off the host's list does nothing to the output. -/
theorem step_callsAccounted {s t : State} (h : step s = .next t) : CallsAccounted s t := by
  rcases step_next_cases h with ⟨-, -, h⟩ | ⟨-, -, a, rest, -, h⟩ | ⟨-, a, rest, -, h⟩ | ⟨-, -, rfl⟩
  · exact run_callsAccounted h
  · exact (CallsAccounted.of_eq (t := { s with host := rest }) rfl rfl).trans (hostBusy_callsAccounted h)
  · exact (CallsAccounted.of_eq (t := { s with host := rest }) rfl rfl).trans (hostIdle_callsAccounted h)
  · exact .refl t

/-- Settles O20: each step of the sequencer accounts for its call, and so does each access of the host. -/
theorem outputHoldsEveryTransportCall : Obligations.OutputHoldsEveryTransportCall :=
  fun _ _ => step_callsAccounted

/-! ### The capacities (R8) -/

/-- A length is beyond a capacity iff it does not fit; every length fits an unbounded one. -/
theorem exceeds_eq_true_iff {cap : Option Nat} {n : Nat} : exceeds cap n = true ↔ ¬fits cap n := by
  cases cap <;> simp [exceeds, fits]

theorem exceeds_eq_false_iff {cap : Option Nat} {n : Nat} : exceeds cap n = false ↔ fits cap n := by
  rw [← Bool.not_eq_true, exceeds_eq_true_iff, not_not]

/-- The collector with room in the scan record (R197). -/
theorem transact_append {s : State} {k : List UOp} (hs : s.seq = .append :: k)
    (h : fits s.params.scanCap (s.scanrec.length + 1)) : transact s = .moved (s.append.goto k) := by
  simp [transact, hs, stepAppend, exceeds_eq_false_iff.2 h]

/-- The collector with the scan record full (U16). -/
theorem transact_append_full {s : State} {k : List UOp} (hs : s.seq = .append :: k)
    (h : ¬fits s.params.scanCap (s.scanrec.length + 1)) : transact s = .refused .scanRecordFull := by
  simp [transact, hs, stepAppend, exceeds_eq_true_iff.2 h]

theorem exec_writeRead_commandTooLong {s : State} {resp : Bool} (h : ¬fits s.params.txMax s.txlen) :
    exec (.writeRead resp) s = .refused .commandTooLong := by
  simp [exec, execWriteRead, exceeds_eq_true_iff.2 h]

theorem exec_writeRead_responseTooLong {s : State} (htx : fits s.params.txMax s.txlen)
    (hrx : ¬fits s.params.rxMax s.rxlen) : exec (.writeRead true) s = .refused .responseTooLong := by
  simp [exec, execWriteRead, exceeds_eq_false_iff.2 htx, exceeds_eq_true_iff.2 hrx]

/-- Settles O60: the collector, and the two checks of WRITE_READ, each within the capacity and beyond it. -/
theorem capacities : Obligations.Capacities :=
  fun _ _ => ⟨fun hs => ⟨transact_append hs, transact_append_full hs⟩,
    fun _ => ⟨exec_writeRead_commandTooLong, exec_writeRead_responseTooLong⟩⟩

end Sys2Proof.Machine
end

section
/-! PROOFS. The statements of spec/10_state.md: the host's registers and buffers (R35 to R37), the invariant of every
state and the lock (R28 to R33), and what each operation leaves unchanged (R106). -/

namespace Sys2Proof.Machine

/-! ### One step of the sequencer: the effect of its first entry, and what is then still to be done -/

/-- What the step of an entry does to the state apart from the sequencer and the transport. The step of a transport
call does nothing else: what is made of its reply is a step of its own (log entry 17). -/
def UOp.effect (s : State) : UOp → State
  | .set u => s.apply u
  | .lock => s.locked
  | .unlock => s.unlocked
  | .checksum bs => s.checked bs
  | .settle => s.record (.settle s.params.tSettle)
  | .beginRelease => { s with sess := .released }
  | .quirkCatch true => s.warn .quirk
  | .released _ => s.apply .clearQuirk
  | .idle _ => { s with sess := .idle }
  | .countUp => { s with count := s.count + 1 }
  | .emitFound => s.emitFound
  | .append => s.append
  | .awaitFound => s.foundTaken s.host.tail
  | .beginScan _ => { s with sess := .scanning }
  | .scanQuirk _ => s.apply .clearQuirk
  | .scanRecord _ => { s with scanrec := [] }
  | .report _ [] => { s with scanrec := [] }
  | .report _ (i :: _) => s.apply (.identifier i)
  | .emitReport _ _ => s.emitReport
  | .awaitReport _ _ => s.reportTaken s.host.tail
  | .reportFailed _ _ => s.warn .callback
  | .scanEnd _ => { s with sess := .acquired }
  | .finish e => s.complete e
  | _ => s

/-- `s'` is `s`, or `s` after one transport call. -/
inductive Asked (s : State) : State → Prop
  | same : Asked s s
  | call {c : Call} {r : Reply} {s' : State} (h : s.ask c = some (r, s')) : Asked s s'

/-- The entries that the step of an entry in the middle of an operation can put before what comes after it. -/
inductive Pushes (s : State) : UOp → List UOp → Prop
  | select : Pushes s .select (selectFrame s.params s.pcount)
  | quirkStep : Pushes s .quirkStep (quirkFrame s.params)
  | readId (bs : List Byte) : Pushes s .readId [.checksum bs]
  | checksum (bs : List Byte) : Pushes s (.checksum bs) [.set (.identifier (.ofList bs))]
  | readRx (bs : List Byte) (h : bs.length ≤ s.rxlen) : Pushes s .readRx [.set (.response bs)]
  | passReset (scmd : Byte) (after : Option SearchMode) :
      Pushes s (.passReset scmd after) (.passCommand scmd :: afterReset scmd after [])
  | noPresence (scmd : Byte) (after : Option SearchMode) :
      Pushes s (.passReset scmd after) (.set (.cursor ldNone) :: afterReset scmd after [])
  | passCommand (scmd : Byte) : Pushes s (.passCommand scmd) [.passTrue 1 ldLast]
  | passTrue (pos : Nat) (next : Discrepancy) (b : Bool) :
      Pushes s (.passTrue pos next) [.passComplement pos next b]
  | noDevice (pos : Nat) (next : Discrepancy) (b : Bool) :
      Pushes s (.passComplement pos next b) [.set (.cursor ldNone)]
  | direction (pos : Nat) (next next' : Discrepancy) (b d : Bool) :
      Pushes s (.passComplement pos next b) [.passWrite pos next' d]
  | passWrite (pos : Nat) (next : Discrepancy) (d : Bool) :
      Pushes s (.passWrite pos next d) [.set (.chosenBit pos d), afterWrite pos next]
  | afterPass (scmd : Byte) (mode : SearchMode) :
      Pushes s (.afterPass scmd mode) (.countUp :: .set .identify :: (deliver mode ++ [.loopTest scmd mode]))
  | emitFound : Pushes s .emitFound [.awaitFound]
  | loopTest (scmd : Byte) (mode : SearchMode) : Pushes s (.loopTest scmd mode) [.passReset scmd (some mode)]

/-- The contents of the sequencer after the step of an entry that ends its operation. -/
inductive Replaces (s : State) : UOp → List UOp → Prop
  | beginRelease : Replaces s .beginRelease [.lock, .quirkStep, .suspendPower, .unlock, .released .ok]
  | released (e : Err) : Replaces s (.released e) [.idle e]
  | idle (e : Err) : Replaces s (.idle e) [.finish e]
  | beginScan (scmd : Byte) : Replaces s (.beginScan scmd) [.scanQuirk scmd]
  | scanQuirk (scmd : Byte) : Replaces s (.scanQuirk scmd) [.scanRecord scmd]
  | scanRecord (scmd : Byte) : Replaces s (.scanRecord scmd) (searchBody scmd .collect ++ [.scanCatch .ok])
  | scanCatch (e : Err) : Replaces s (.scanCatch e) [.report e s.scanrec]
  | reported (e : Err) : Replaces s (.report e []) [.scanEnd e]
  | report (e : Err) (i : Identifier) (todo : List Identifier) :
      Replaces s (.report e (i :: todo)) [.emitReport e todo]
  | emitReport (e : Err) (todo : List Identifier) : Replaces s (.emitReport e todo) [.awaitReport e todo]
  | callbackFailed (e : Err) (todo : List Identifier) : Replaces s (.awaitReport e todo) [.reportFailed e todo]
  | callbackOk (e : Err) (todo : List Identifier) : Replaces s (.awaitReport e todo) [.report e todo]
  | reportFailed (e : Err) (todo : List Identifier) : Replaces s (.reportFailed e todo) [.report e todo]
  | scanEnd (e : Err) : Replaces s (.scanEnd e) [.finish e]
  | finish (e : Err) : Replaces s (.finish e) []

/-- The contents of the sequencer after a step: of an entry in the middle of an operation what came after it, alone,
unwound by a raise, or with entries put before it; of one that ends its operation, what replaces it. -/
inductive Sequel (s : State) (u : UOp) (k : List UOp) : List UOp → Prop
  | rest (h : u.ends = false) (hf : u ≠ .emitFound := by simp) : Sequel s u k k
  | raised (h : u.ends = false) (e : Err) (hf : u ≠ .emitFound := by simp) : Sequel s u k (unwind e k)
  | pushed {l : List UOp} (h : Pushes s u l) : Sequel s u k (l ++ k)
  | replaced {l : List UOp} (h : Replaces s u l) : Sequel s u k l

theorem afterReset_append (scmd : Byte) (after : Option SearchMode) (k : List UOp) :
    afterReset scmd after [] ++ k = afterReset scmd after k := by cases after <;> rfl

/-- What a guarded call that moved on did: it raised, or went on with the reply. -/
theorem State.askOr_moved {s t : State} {c : Call} {k : List UOp} {go : Reply → State → Progress}
    (h : s.askOr c k go = .moved t) :
    ∃ r s', s.ask c = some (r, s') ∧ (t = s'.goto (unwind .busIoFailure k) ∨ go r s' = .moved t) := by
  rcases State.askOr_cases s c k go with ⟨-, h'⟩ | ⟨s', ha, h'⟩ | ⟨r, s', -, ha, h'⟩ <;> rw [h'] at h
  · cases h
  · cases h; exact ⟨_, s', ha, .inl rfl⟩
  · exact ⟨r, s', ha, .inr h⟩

/-- A guarded call as the step of an entry without another effect, each way of going on being a sequel. -/
theorem State.askOr_sequel {s t : State} {c : Call} {u : UOp} {k : List UOp} {go : Reply → State → Progress}
    (h : s.askOr c k go = .moved t) (he : ∀ s', u.effect s' = s') (hu : u.ends = false)
    (hgo : ∀ r s', s.ask c = some (r, s') → go r s' = .moved t → ∃ k', Sequel s u k k' ∧ t = s'.goto k')
    (hf : u ≠ .emitFound := by simp) :
    ∃ s' k', Asked s s' ∧ Sequel s u k k' ∧ t = (u.effect s').goto k' := by
  obtain ⟨r, s', ha, rfl | hg⟩ := State.askOr_moved h
  · exact ⟨s', _, .call ha, .raised hu _ hf, by rw [he]⟩
  · obtain ⟨k', hk, rfl⟩ := hgo r s' ha hg
    exact ⟨s', k', .call ha, hk, by rw [he]⟩

/-- The bytes of a block read's reply are at most as many as were asked for. -/
theorem State.ask_readBlock_data_length {s s' : State} {n : Nat} {r : Reply}
    (h : s.ask (.readBlock n) = some (r, s')) : r.data.length ≤ n := by
  cases r with
  | bytes bs => exact (State.ask_readBlock_length h).le
  | _ => exact Nat.zero_le n

/-- Every step of the sequencer: the effect of the first entry, after a call or without one, and a sequel. -/
theorem transact_sequel {s t : State} {u : UOp} {k : List UOp} (hs : s.seq = u :: k)
    (h : transact s = .moved t) :
    ∃ s' k', Asked s s' ∧ Sequel s u k k' ∧ t = (u.effect s').goto k' := by
  cases u <;> simp only [transact, hs] at h
  case lock =>
    simp only [stepLock] at h
    split at h <;> cases h
    exact ⟨s, k, .same, .rest rfl, rfl⟩
  case unlock | set | settle => cases h; exact ⟨s, k, .same, .rest rfl, rfl⟩
  case select => cases h; exact ⟨s, _, .same, .pushed .select, rfl⟩
  case emitFound => cases h; exact ⟨s, _, .same, .pushed .emitFound, rfl⟩
  case checksum bs =>
    simp only [stepChecksum] at h
    split at h <;> cases h
    · exact ⟨s, _, .same, .pushed (.checksum bs), rfl⟩
    · exact ⟨s, _, .same, .raised rfl _, rfl⟩
  case quirkStep =>
    simp only [stepQuirkStep] at h
    split at h <;> cases h
    · exact ⟨s, _, .same, .pushed .quirkStep, rfl⟩
    · exact ⟨s, _, .same, .rest rfl, rfl⟩
  case quirkCatch failed =>
    cases failed <;> cases h <;> exact ⟨s, _, .same, .rest rfl, rfl⟩
  case afterPass scmd mode =>
    simp only [stepAfterPass] at h
    split at h <;> cases h
    · exact ⟨s, _, .same, .rest rfl, rfl⟩
    · exact ⟨s, _, .same, .pushed (.afterPass scmd mode), by simp [UOp.effect]⟩
  case loopTest scmd mode =>
    simp only [stepLoopTest] at h
    split at h <;> cases h
    · exact ⟨s, _, .same, .rest rfl, rfl⟩
    · exact ⟨s, _, .same, .pushed (.loopTest scmd mode), rfl⟩
  case countUp | append =>
    simp only [stepCountUp, stepAppend] at h
    split at h <;> cases h
    exact ⟨s, _, .same, .rest rfl, rfl⟩
  case awaitFound =>
    simp only [stepAwaitFound] at h
    split at h
    · cases h
    · next hh =>
      split at h <;> cases h
      exact ⟨s, _, .same, .rest rfl, by simp [UOp.effect, hh]⟩
  case beginRelease => cases h; exact ⟨s, _, .same, .replaced .beginRelease, rfl⟩
  case released e => cases h; exact ⟨s, _, .same, .replaced (.released e), rfl⟩
  case idle e => cases h; exact ⟨s, _, .same, .replaced (.idle e), rfl⟩
  case beginScan scmd => cases h; exact ⟨s, _, .same, .replaced (.beginScan scmd), rfl⟩
  case scanQuirk scmd => cases h; exact ⟨s, _, .same, .replaced (.scanQuirk scmd), rfl⟩
  case scanRecord scmd => cases h; exact ⟨s, _, .same, .replaced (.scanRecord scmd), rfl⟩
  case scanCatch e => cases h; exact ⟨s, _, .same, .replaced (.scanCatch e), rfl⟩
  case report e todo =>
    cases todo <;> cases h
    · exact ⟨s, _, .same, .replaced (.reported e), rfl⟩
    · exact ⟨s, _, .same, .replaced (.report e _ _), rfl⟩
  case emitReport e todo => cases h; exact ⟨s, _, .same, .replaced (.emitReport e todo), rfl⟩
  case awaitReport e todo =>
    simp only [stepAwaitReport] at h
    split at h
    · cases h
    · next hh =>
      split at h
      · cases h
        refine ⟨s, _, .same, .replaced ?_, by rw [UOp.effect, hh]; rfl⟩
        split
        · exact .callbackFailed e todo
        · exact .callbackOk e todo
      · cases h
  case reportFailed e todo => cases h; exact ⟨s, _, .same, .replaced (.reportFailed e todo), rfl⟩
  case scanEnd e => cases h; exact ⟨s, _, .same, .replaced (.scanEnd e), rfl⟩
  case finish e => cases h; exact ⟨s, _, .same, .replaced (.finish e), rfl⟩
  case writeTx =>
    simp only [stepWriteTx] at h
    split at h
    · cases h
    · exact State.askOr_sequel h (fun _ => rfl) rfl fun r s' _ hg => by cases hg; exact ⟨_, .rest rfl, rfl⟩
  case resetIgnored | writeByte | writeId | resumePower | suspendPower =>
    exact State.askOr_sequel h (fun _ => rfl) rfl fun r s' _ hg => by cases hg; exact ⟨_, .rest rfl, rfl⟩
  case resetAddressed =>
    refine State.askOr_sequel h (fun _ => rfl) rfl fun r s' _ hg => ?_
    split at hg <;> cases hg
    · exact ⟨_, .rest rfl, rfl⟩
    · exact ⟨_, .raised rfl _, rfl⟩
  case readId =>
    exact State.askOr_sequel h (fun _ => rfl) rfl fun r s' _ hg => by
      cases hg; exact ⟨_, .pushed (.readId r.data), rfl⟩
  case readRx =>
    exact State.askOr_sequel h (fun _ => rfl) rfl fun r s' ha hg => by
      cases hg; exact ⟨_, .pushed (.readRx r.data (State.ask_readBlock_data_length ha)), rfl⟩
  case passReset scmd after =>
    refine State.askOr_sequel h (fun _ => rfl) rfl fun r s' _ hg => ?_
    rw [← afterReset_append] at hg
    split at hg <;> cases hg
    · exact ⟨_, .pushed (.passReset scmd after), rfl⟩
    · exact ⟨_, .pushed (.noPresence scmd after), rfl⟩
  case passCommand scmd =>
    exact State.askOr_sequel h (fun _ => rfl) rfl fun r s' _ hg => by
      cases hg; exact ⟨_, .pushed (.passCommand scmd), rfl⟩
  case passTrue pos next =>
    exact State.askOr_sequel h (fun _ => rfl) rfl fun r s' _ hg => by
      cases hg; exact ⟨_, .pushed (.passTrue pos next r.flag), rfl⟩
  case passComplement pos next b =>
    refine State.askOr_sequel h (fun _ => rfl) rfl fun r s' _ hg => ?_
    repeat' split at hg
    all_goals cases hg
    · exact ⟨_, .pushed (.noDevice pos next b), rfl⟩
    all_goals exact ⟨_, .pushed (.direction pos next _ b _), rfl⟩
  case passWrite pos next d =>
    exact State.askOr_sequel h (fun _ => rfl) rfl fun r s' _ hg => by
      cases hg; exact ⟨_, .pushed (.passWrite pos next d), rfl⟩

/-! ### What a transport call leaves alone -/

namespace Asked
variable {s s' : State}

/-- Between the two only the transport and the output differ, and the output has gained only calls. -/
theorem eq_bus_log (h : Asked s s') :
    ∃ b l, s' = { s with bus := b, log := l ++ s.log } ∧ b.lockedElsewhere = s.bus.lockedElsewhere ∧
      ∀ e ∈ l, isCall e = true := by
  cases h with
  | same => exact ⟨s.bus, [], rfl, rfl, by simp⟩
  | call h =>
    obtain ⟨b, hb, rfl⟩ := State.ask_some h
    obtain ⟨-, -, -, -, -, -, hl, -⟩ := Transport.call_some hb
    exact ⟨b, [_], rfl, hl, by simp [isCall]⟩

theorem seq (h : Asked s s') : s'.seq = s.seq := by obtain ⟨b, l, rfl, -⟩ := h.eq_bus_log; rfl

theorem consistent (h : Asked s s') (hs : s.Consistent) : s'.Consistent := by
  obtain ⟨b, l, rfl, hb, -⟩ := h.eq_bus_log
  exact { hs with exclusive := fun hd => hb.trans (hs.exclusive hd) }

theorem lockFree (h : Asked s s') : s'.lockFree = s.lockFree := by
  obtain ⟨b, l, rfl, hb, -⟩ := h.eq_bus_log
  simp [State.lockFree, hb]

end Asked

/-! ### The contents of the sequencer after a step in the middle of an operation -/

theorem wellSequenced_append {l k : List UOp} (hl : ∀ v ∈ l, v.ends = false) (ht : ∀ v ∈ l.tail, v.onlyNext = false)
    (hk : wellSequenced k = true) (ho : ∀ v ∈ k, v.onlyNext = false) : wellSequenced (l ++ k) = true := by
  induction l with
  | nil => exact hk
  | cons u l ih =>
    have hl' := List.forall_mem_cons.1 hl
    refine wellSequenced_of_cons hl'.1 (ih hl'.2 fun v hv => ht v (List.mem_of_mem_tail hv)) fun v hv => ?_
    rcases List.mem_append.1 hv with hv | hv
    · exact ht v hv
    · exact ho v hv

/-- Entries that can be put before the rest of an operation by the step of `u`. -/
structure Prefixes (u : UOp) (l : List UOp) : Prop where
  ne_nil : l ≠ []
  ends : ∀ v ∈ l, v.ends = false
  onlyNext : ∀ v ∈ l.tail, v.onlyNext = false
  positions : u.positionOk = true → l.all UOp.positionOk = true
  brackets : l.count .unlock = l.count .lock
  collecting : l.any UOp.collects = true → u.collects = true
  acquiring : .set .acquire ∉ l
  found : awaitsFound l = decide (u = .emitFound)
  report : awaitsReport l = false

theorem Pushes.prefixes {s : State} {u : UOp} {l : List UOp} (h : Pushes s u l) : Prefixes u l := by
  cases h with
  | select =>
    unfold selectFrame
    split <;> constructor <;>
      simp [matchFrame, skipFrame, UOp.ends, UOp.onlyNext, UOp.positionOk, UOp.collects, awaitsFound, awaitsReport]
  | passReset scmd after | noPresence scmd after =>
    rcases after with _ | _ | _ <;> constructor <;>
      simp [afterReset, UOp.ends, UOp.onlyNext, UOp.positionOk, UOp.collects, awaitsFound, awaitsReport]
  | afterPass scmd mode | loopTest scmd mode =>
    cases mode <;> constructor <;>
      simp [deliver, UOp.ends, UOp.onlyNext, UOp.positionOk, UOp.collects, awaitsFound, awaitsReport]
  | passWrite pos next d =>
    unfold afterWrite
    split <;> constructor <;>
      simp [UOp.ends, UOp.onlyNext, UOp.positionOk, UOp.collects, awaitsFound, awaitsReport]
    omega
  | _ =>
    constructor <;>
      simp [quirkFrame, skipFrame, UOp.ends, UOp.onlyNext, UOp.positionOk, UOp.collects, awaitsFound, awaitsReport,
        lastPosition]

/-- The contents of the sequencer after the step of `u` in the middle of an operation, `k` being what came after it. -/
structure Continues (u : UOp) (k k' : List UOp) : Prop where
  sequenced : wellSequenced k' = true
  positions : k'.all UOp.positionOk = true
  brackets : k.count .unlock + k'.count .lock = k'.count .unlock
  session : ∀ sess, sessionMatches sess k'.getLast? = sessionMatches sess k.getLast?
  collecting : k'.any UOp.collects = true → (u :: k).any UOp.collects = true
  acquiring : .set .acquire ∈ k' → .set .acquire ∈ u :: k
  found : awaitsFound k' = decide (u = .emitFound)
  report : awaitsReport k' = false
  alone : ∀ v, k' = [v] → v.onlyNext = false

theorem count_lock_of_not_onlyNext {k : List UOp} (h : ∀ v ∈ k, v.onlyNext = false) : k.count .lock = 0 :=
  List.count_eq_zero.2 fun hm => Bool.false_ne_true (h _ hm).symm

theorem awaits_of_not_onlyNext {k : List UOp} (h : ∀ v ∈ k, v.onlyNext = false) :
    awaitsFound k = false ∧ awaitsReport k = false := by
  rcases k with _ | ⟨u, k⟩
  · exact ⟨rfl, rfl⟩
  · have hu := h u List.mem_cons_self
    cases u <;> first | exact ⟨rfl, rfl⟩ | cases hu

/-- What stands for the rest of the operation continues it. -/
theorem StandsFor.continues {u : UOp} {k k' : List UOp} (h : StandsFor k k') (hu : u ≠ .emitFound) :
    Continues u k k' where
  sequenced := h.sequenced
  positions := h.positions
  brackets := by rw [count_lock_of_not_onlyNext h.onlyNext, h.unlocks, Nat.add_zero]
  session := h.session
  collecting hc := by simp [h.collecting hc]
  acquiring ha := List.mem_cons_of_mem u (h.acquiring ha)
  found := by simp [(awaits_of_not_onlyNext h.onlyNext).1, hu]
  report := (awaits_of_not_onlyNext h.onlyNext).2
  alone v hv := h.onlyNext v (by simp [hv])

theorem standsFor_refl {k : List UOp} (hk : wellSequenced k = true) (ho : ∀ v ∈ k, v.onlyNext = false)
    (hp : k.all UOp.positionOk = true) : StandsFor k k :=
  ⟨hk, ho, hp, rfl, fun _ => rfl, id, id⟩

/-- Entries put before the rest of the operation continue it. -/
theorem Prefixes.continues {u : UOp} {l k : List UOp} (h : Prefixes u l) (hk : wellSequenced k = true)
    (ho : ∀ v ∈ k, v.onlyNext = false) (hu : u.positionOk = true) (hp : k.all UOp.positionOk = true) :
    Continues u k (l ++ k) where
  sequenced := wellSequenced_append h.ends h.onlyNext hk ho
  positions := by rw [List.all_append, h.positions hu, hp]; rfl
  brackets := by rw [List.count_append, List.count_append, count_lock_of_not_onlyNext ho, h.brackets]; omega
  session sess := by rw [List.getLast?_append_of_ne_nil _ (wellSequenced_ne_nil hk)]
  collecting hc := by
    rw [List.any_append, Bool.or_eq_true] at hc
    rw [List.any_cons, Bool.or_eq_true]
    exact hc.imp_left h.collecting
  acquiring ha := List.mem_cons_of_mem u ((List.mem_append.1 ha).resolve_left h.acquiring)
  found := by
    rw [← h.found]
    rcases l with _ | ⟨v, l⟩
    · exact absurd rfl h.ne_nil
    · cases v <;> rfl
  report := by
    rw [← h.report]
    rcases l with _ | ⟨v, l⟩
    · exact absurd rfl h.ne_nil
    · cases v <;> rfl
  alone v hv := by
    have hl := congrArg List.length hv
    have := List.length_pos_iff.2 h.ne_nil
    have := List.length_pos_iff.2 (wellSequenced_ne_nil hk)
    simp only [List.length_append, List.length_singleton] at hl
    omega

/-- Only the entries that end their operation are replaced. -/
theorem Replaces.ends {s : State} {u : UOp} {l : List UOp} (h : Replaces s u l) : u.ends = true := by
  cases h <;> rfl

/-- Every step in the middle of an operation continues it. -/
theorem Sequel.continues {s : State} {u : UOp} {k k' : List UOp} (h : Sequel s u k k') (hu : u.ends = false)
    (hs : wellSequenced (u :: k) = true) (hp : (u :: k).all UOp.positionOk = true) : Continues u k k' := by
  rcases wellSequenced_cons hs with ⟨-, he⟩ | ⟨-, hk, ho⟩
  · simp [hu] at he
  rw [List.all_cons, Bool.and_eq_true] at hp
  obtain ⟨hpu, hpk⟩ := hp
  cases h with
  | rest _ hf => exact (standsFor_refl hk ho hpk).continues hf
  | raised _ e hf => exact (standsFor_unwind e hk ho hpk).continues hf
  | pushed hl => exact hl.prefixes.continues hk ho hpu hpk
  | replaced hl => simp [hl.ends] at hu

/-! ### What an effect leaves and writes -/

namespace UOp
variable (s : State) (u : UOp)

@[simp] theorem effect_params : (u.effect s).params = s.params := by
  unfold effect
  split <;> simp

@[simp] theorem effect_txbuf : (u.effect s).txbuf = s.txbuf := by
  unfold effect
  split <;> simp

@[simp] theorem effect_bus : (u.effect s).bus = s.bus := by
  unfold effect
  split <;> simp

/-- Only WRITE_READ's update of the response writes `RXBUF`. -/
theorem effect_rxbuf :
    (u.effect s).rxbuf = s.rxbuf ∨
      ∃ bs, u = .set (.response bs) ∧ (u.effect s).rxbuf = s.rxbuf.writeBlock 0 bs := by
  unfold effect
  split
  case h_1 v => cases v <;> simp [State.apply]
  all_goals exact .inl rfl

theorem effect_rxbuf_wf (h : s.rxbuf.wf = true) : (u.effect s).rxbuf.wf = true := by
  rcases effect_rxbuf s u with h' | ⟨bs, -, h'⟩ <;> rw [h']
  · exact h
  · exact Buffer.writeBlock_wf 0 bs h

/-- A bracket opened is one more held, a bracket closed one less. -/
theorem effect_lockDepth (h : u = .unlock → s.lockDepth ≠ 0) :
    (u.effect s).lockDepth + [u].count .unlock = s.lockDepth + [u].count .lock := by
  unfold effect
  split <;> simp_all
  omega

/-- In the middle of an operation `BUSY`, `DONE` and `ERR` stand. -/
theorem effect_inFlight (h : u.ends = false) :
    (u.effect s).status.busy = s.status.busy ∧ (u.effect s).status.done = s.status.done ∧
      (u.effect s).status.err = s.status.err := by
  unfold effect
  split <;> simp_all [ends, Status.warned]

/-- In the middle of an operation an event becomes pending only by its emission, and is so no more once taken. -/
theorem effect_pending (h : u.ends = false) :
    (u.effect s).status.reportPending = s.status.reportPending ∧
      (u.effect s).status.foundPending =
        (decide (u = .emitFound) || (s.status.foundPending && decide (u ≠ .awaitFound))) := by
  unfold effect
  split <;> simp_all [ends, Status.warned]

/-- In the middle of an operation only ACQUIRE's update writes `SESS`. -/
theorem effect_sess (h : u.ends = false) (hu : u ≠ .set .acquire) : (u.effect s).sess = s.sess := by
  unfold effect
  split
  case h_1 v => cases v <;> simp_all [State.apply]
  all_goals simp_all [ends]

/-- In the middle of an operation only the collector writes the scan record. -/
theorem effect_scanrec (h : u.ends = false) (hu : u.collects = false) : (u.effect s).scanrec = s.scanrec := by
  unfold effect
  split <;> simp_all [ends, collects]

/-- In the middle of an operation only the collector sets `QUIRK`. -/
theorem effect_quirk (h : u.ends = false) (hu : u.collects = false) (hq : s.quirk = false) :
    (u.effect s).quirk = false := by
  unfold effect
  split
  case h_1 v => cases v <;> simp_all [State.apply, collects]
  all_goals simp_all [ends]

end UOp

/-! ### The sequencer and `STATUS` -/

/-- What holds of the sequencer and of `STATUS` while operations run, whatever the session (R27, R28). -/
structure State.Sequenced (s : State) : Prop where
  busy : s.status.busy = !s.seq.isEmpty
  inFlight : s.status.busy = true → s.status.done = false ∧ s.status.err = .ok
  sequenced : s.seq = [] ∨ wellSequenced s.seq = true
  positions : s.seq.all UOp.positionOk = true

theorem Asked.sequenced {s s' : State} (h : Asked s s') (hs : s.Sequenced) : s'.Sequenced := by
  obtain ⟨b, l, rfl, -⟩ := h.eq_bus_log
  exact ⟨hs.busy, hs.inFlight, hs.sequenced, hs.positions⟩

theorem State.Sequenced.wellSequenced_of_seq {s : State} {u : UOp} {k : List UOp} (hs : s.Sequenced)
    (h : s.seq = u :: k) : wellSequenced (u :: k) = true := by
  rcases hs.sequenced with h' | h'
  · rw [h'] at h; cases h
  · rwa [h] at h'

/-- A step in the middle of an operation. -/
theorem State.Sequenced.continued {s : State} {u : UOp} {k k' : List UOp} (hs : s.Sequenced) (hseq : s.seq = u :: k)
    (hu : u.ends = false) (hc : Continues u k k') : ((u.effect s).goto k').Sequenced := by
  obtain ⟨hb, hd, he⟩ := UOp.effect_inFlight s u hu
  have hbusy : s.status.busy = true := by simp [hs.busy, hseq]
  have hk' := wellSequenced_ne_nil hc.sequenced
  exact ⟨by simpa [hb, hbusy] using hk', fun _ => by simpa [hd, he] using hs.inFlight hbusy, .inr hc.sequenced,
    hc.positions⟩

/-- A step of the entry that ends the operation. -/
theorem State.Sequenced.replaced {s s₀ : State} {u : UOp} {l : List UOp} (hs : s.Sequenced) (hseq : s.seq = [u])
    (h : Replaces s₀ u l) : ((u.effect s).goto l).Sequenced := by
  have hbusy : s.status.busy = true := by simp [hs.busy, hseq]
  have hf := hs.inFlight hbusy
  cases h with
  | finish => exact ⟨rfl, nofun, .inl rfl, rfl⟩
  | _ => exact ⟨hbusy, fun _ => hf, .inr rfl, rfl⟩

theorem Pushes.ends {s : State} {u : UOp} {l : List UOp} (h : Pushes s u l) : u.ends = false := by
  cases h <;> rfl

/-- After the entry that ends an operation comes what replaces it. -/
theorem Sequel.replaces {s : State} {u : UOp} {k k' : List UOp} (h : Sequel s u k k') (hu : u.ends = true) :
    Replaces s u k' := by
  cases h with
  | rest h | raised h => simp [hu] at h
  | pushed h => simp [h.ends] at hu
  | replaced h => exact h

/-- All a step of the sequencer can do to a state whose contents are well-sequenced: its first entry takes effect,
after a call or without one, and the operation is continued, or its last entry replaced. -/
theorem transact_cases {s t : State} (hs : s.Sequenced) (h : transact s = .moved t) :
    ∃ u k s' k', s.seq = u :: k ∧ Asked s s' ∧ t = (u.effect s').goto k' ∧ Sequel s u k k' ∧
      ((u.ends = false ∧ Continues u k k') ∨ (k = [] ∧ Replaces s u k')) := by
  rcases hseq : s.seq with _ | ⟨u, k⟩
  · simp [transact, hseq] at h
  obtain ⟨s', k', hask, hk, ht⟩ := transact_sequel hseq h
  refine ⟨u, k, s', k', rfl, hask, ht, hk, ?_⟩
  rcases wellSequenced_cons (hs.wellSequenced_of_seq hseq) with ⟨hnil, hu⟩ | ⟨hu, -⟩
  · exact .inr ⟨hnil, hk.replaces hu⟩
  · exact .inl ⟨hu, hk.continues hu (hs.wellSequenced_of_seq hseq) (hseq ▸ hs.positions)⟩

/-- Every step of the sequencer. -/
theorem transact_sequenced {s t : State} (hs : s.Sequenced) (h : transact s = .moved t) : t.Sequenced := by
  obtain ⟨u, k, s', k', hseq, hask, rfl, -, ⟨hu, hc⟩ | ⟨rfl, hr⟩⟩ := transact_cases hs h
  · exact (hask.sequenced hs).continued (hask.seq.trans hseq) hu hc
  · exact (hask.sequenced hs).replaced (hask.seq.trans hseq) hr

/-! ### The whole invariant -/

theorem State.Consistent.toSequenced {s : State} (hs : s.Consistent) : s.Sequenced :=
  ⟨hs.busy, hs.inFlight, hs.sequenced, hs.positions⟩

/-- A session that is Idle or Acquired may become Acquired. -/
theorem sessionMatches_acquired {sess : Session} {last : Option UOp} (h : sessionMatches sess last = true)
    (hs : sess = .idle ∨ sess = .acquired) : sessionMatches .acquired last = true := by
  rcases hs with rfl | rfl
  · unfold sessionMatches at h ⊢
    split at h <;> first | rfl | cases h
  · exact h

/-- The lock is taken only where it is free. -/
theorem transact_lock {s t : State} {k : List UOp} (hs : s.seq = .lock :: k) (h : transact s = .moved t) :
    s.lockFree = true := by
  simp only [transact, hs, stepLock] at h
  split at h
  · assumption
  · cases h

/-- In the middle of an operation the session is as it was, or ACQUIRE's update has made it Acquired. -/
theorem UOp.effect_sess_cases (s : State) (u : UOp) (h : u.ends = false) :
    (u.effect s).sess = s.sess ∨ (u = .set .acquire ∧ (u.effect s).sess = .acquired) := by
  by_cases hu : u = .set .acquire
  · subst hu; exact .inr ⟨rfl, rfl⟩
  · exact .inl (UOp.effect_sess s u h hu)

namespace State.Consistent

/-- A bracket about to be closed is open. -/
theorem lockDepth_ne_zero {s : State} {u : UOp} {k : List UOp} (hs : s.Consistent) (hseq : s.seq = u :: k)
    (hu : u = .unlock) : s.lockDepth ≠ 0 := by
  subst hu
  obtain ⟨-, h⟩ | ⟨-, -, ho⟩ := wellSequenced_cons (hs.toSequenced.wellSequenced_of_seq hseq)
  · cases h
  have hbal := hs.balanced
  simp only [hseq, List.count_cons_self, ne_eq, reduceCtorEq, not_false_eq_true, List.count_cons_of_ne,
    count_lock_of_not_onlyNext ho] at hbal
  omega

/-- What the depth of the lock becomes by the step of the first entry. -/
theorem effect_lockDepth {s : State} {u : UOp} {k : List UOp} (hs : s.Consistent) (hseq : s.seq = u :: k) :
    (u.effect s).lockDepth + [u].count .unlock = s.lockDepth + [u].count .lock :=
  UOp.effect_lockDepth s u (hs.lockDepth_ne_zero hseq)

section
variable {s : State} {u : UOp} {k k' : List UOp} (hs : s.Consistent) (hseq : s.seq = u :: k) (hu : u.ends = false)
include hs hseq hu

/-- The first entry is the only one that opens a bracket. -/
theorem effect_balanced : (u.effect s).lockDepth = k.count .unlock := by
  obtain ⟨-, h⟩ | ⟨-, -, ho⟩ := wellSequenced_cons (hs.toSequenced.wellSequenced_of_seq hseq)
  · simp [hu] at h
  have hbal := hs.balanced
  rw [hseq, ← List.singleton_append, List.count_append, List.count_append, count_lock_of_not_onlyNext ho] at hbal
  have hdepth := hs.effect_lockDepth hseq
  omega

omit hu in
theorem effect_exclusive (hl : u = .lock → s.lockFree = true) (hd : (u.effect s).lockDepth ≠ 0) :
    s.bus.lockedElsewhere = false := by
  by_cases h : u = .lock
  · have hfree := hl h
    simp only [State.lockFree, Bool.or_eq_true, bne_iff_ne, Bool.not_eq_true'] at hfree
    exact hfree.elim hs.exclusive fun h => h
  · have hdepth := hs.effect_lockDepth hseq
    exact hs.exclusive (by simp [h] at hdepth; omega)

theorem effect_scanning (h : s.sess = .scanning) : (u.effect s).sess = .scanning := by
  rcases UOp.effect_sess_cases s u hu with h' | ⟨rfl, -⟩
  · rw [h', h]
  · rcases hs.acquiring (by simp [hseq]) with h' | h' <;> simp [h] at h'

omit hu in
theorem not_collects (h : s.sess ≠ .scanning) : u.collects = false := by
  by_contra hc
  exact h (hs.collecting (by simp_all))

theorem effect_record (h : (u.effect s).sess ≠ .scanning) : (u.effect s).scanrec = [] := by
  have h' : s.sess ≠ .scanning := fun h' => h (hs.effect_scanning hseq hu h')
  rw [UOp.effect_scanrec s u hu (hs.not_collects hseq h'), hs.record h']

theorem effect_quirk (h : (u.effect s).sess = .idle) : (u.effect s).quirk = false := by
  rcases UOp.effect_sess_cases s u hu with h' | ⟨-, h'⟩
  · have h' : s.sess = .idle := h'.symm.trans h
    exact UOp.effect_quirk s u hu (hs.not_collects hseq (by simp [h'])) (hs.quirk h')
  · cases h'.symm.trans h

theorem effect_session {last : Option UOp} (h : sessionMatches s.sess last = true) :
    sessionMatches (u.effect s).sess last = true := by
  rcases UOp.effect_sess_cases s u hu with h' | ⟨rfl, h'⟩ <;> rw [h']
  · exact h
  · exact sessionMatches_acquired h (hs.acquiring (by simp [hseq]))

/-- A step in the middle of an operation. -/
theorem continued (hc : Continues u k k') (hl : u = .lock → s.lockFree = true) :
    ((u.effect s).goto k').Consistent where
  busy := (hs.toSequenced.continued hseq hu hc).busy
  inFlight := (hs.toSequenced.continued hseq hu hc).inFlight
  sequenced := .inr hc.sequenced
  positions := hc.positions
  balanced := (congrArg (· + _) (hs.effect_balanced hseq hu)).trans hc.brackets
  exclusive hd := by simpa using hs.effect_exclusive hseq hl hd
  session := hs.effect_session hseq hu <| by
    obtain ⟨-, h⟩ | ⟨-, hk, -⟩ := wellSequenced_cons (hs.toSequenced.wellSequenced_of_seq hseq)
    · simp [hu] at h
    rw [State.goto_seq, hc.session, ← getLast?_cons_of_ne_nil (u := u) (wellSequenced_ne_nil hk), ← hseq]
    exact hs.session
  collecting h := hs.effect_scanning hseq hu (hs.collecting (hseq ▸ hc.collecting h))
  acquiring h := by
    rcases UOp.effect_sess_cases s u hu with h' | ⟨-, h'⟩
    · rw [State.goto_sess, h']
      exact hs.acquiring (hseq ▸ hc.acquiring h)
    · exact .inr h'
  record := hs.effect_record hseq hu
  quirk := hs.effect_quirk hseq hu
  emptied e h := by cases hc.alone _ h
  cleared e h := by cases hc.alone _ h
  found := by
    simp only [State.goto_status, (UOp.effect_pending s u hu).2, hs.found, hseq, State.goto_seq, hc.found]
    cases u <;> simp [awaitsFound]
  report := by
    simp only [State.goto_status, (UOp.effect_pending s u hu).1, hs.report, hseq, State.goto_seq, hc.report]
    cases u <;> first | rfl | cases hu
  buffers := ⟨by simpa using hs.buffers.1, UOp.effect_rxbuf_wf s u hs.buffers.2⟩

end

/-- The entry that ends an operation is run with no bracket open. -/
theorem lockDepth_of_single {s : State} {u : UOp} (hs : s.Consistent) (hseq : s.seq = [u]) (hu : u.ends = true) :
    (u.effect s).lockDepth = 0 := by
  have hlock : u ≠ .lock := by rintro rfl; cases hu
  have hunlock : u ≠ .unlock := by rintro rfl; cases hu
  have hbal := hs.balanced
  have hdepth := hs.effect_lockDepth hseq
  simp only [hseq, List.count_singleton, beq_iff_eq, hlock, hunlock, if_false] at hbal hdepth
  omega

/-- A step of the entry that ends the operation: no bracket is open, and each of these steps leaves the session, the
scan record and `QUIRK` as the next one expects them. -/
theorem replaced {s s₀ : State} {u : UOp} {l : List UOp} (hs : s.Consistent) (hseq : s.seq = [u])
    (h : Replaces s₀ u l) : ((u.effect s).goto l).Consistent := by
  have hsq := hs.toSequenced.replaced hseq h
  have hdepth := hs.lockDepth_of_single hseq h.ends
  obtain ⟨-, -, -, -, -, -, hsess, -, -, hrec, hq, hemp, hclr, hfound, hreport, hbuf⟩ := hs
  rw [hseq] at hsess hfound hreport
  exact {
    hsq with
    balanced := by
      rw [State.goto_lockDepth, hdepth]
      cases h <;> rfl
    exclusive := fun hd => absurd hdepth hd
    session := by cases h <;> first | exact hsess | rfl
    collecting := by cases h <;> simp [UOp.collects, UOp.effect, searchBody]; exact eq_of_beq hsess
    acquiring := by cases h <;> simp [searchBody]
    record := by cases h <;> simp_all [UOp.effect, sessionMatches, State.apply]
    quirk := by cases h <;> simp_all [UOp.effect, sessionMatches, State.apply]
    emptied := by cases h <;> simp_all [UOp.effect, searchBody]
    cleared := by cases h <;> simp_all [UOp.effect, searchBody, State.apply]
    found := by cases h <;> exact hfound
    report := by cases h <;> first | exact hreport | rfl
    buffers := ⟨by simpa using hbuf.1, UOp.effect_rxbuf_wf s u hbuf.2⟩ }

end State.Consistent

/-- Every step of the sequencer. -/
theorem transact_consistent {s t : State} (hs : s.Consistent) (h : transact s = .moved t) : t.Consistent := by
  obtain ⟨u, k, s', k', hseq, hask, rfl, -, ⟨hu, hc⟩ | ⟨rfl, hr⟩⟩ := transact_cases hs.toSequenced h
  · refine (hask.consistent hs).continued (hask.seq.trans hseq) hu hc ?_
    rintro rfl
    rw [hask.lockFree]
    exact transact_lock hseq h
  · exact (hask.consistent hs).replaced (hask.seq.trans hseq) hr

theorem run_sequenced {s t : State} (hs : s.Sequenced) (h : run s = .next t) : t.Sequenced :=
  (run_induct (fun _ _ => transact_sequenced) hs h).1

theorem run_consistent {s t : State} (hs : s.Consistent) (h : run s = .next t) : t.Consistent :=
  (run_induct (fun _ _ => transact_consistent) hs h).1

/-! ### The operations' programs -/

/-- The steps an operation is issued as. -/
def programOf (s : State) : Instr → List UOp
  | .searchPass alarm _ => [.lock, .passReset (searchCommand s.params alarm) none, .unlock, .finish .ok]
  | .searchAll alarm _ => searchBody (searchCommand s.params alarm) .emit ++ [.finish .ok]
  | .readId => [.lock, .resetAddressed, .writeByte s.params.cmdReadRom, .readId, .unlock, .finish .ok]
  | .matchId => matchFrame s.params ++ [.finish .ok]
  | .skip => skipFrame s.params ++ [.finish .ok]
  | .resume => [.lock, .resetAddressed, .writeByte s.params.cmdResume, .unlock, .finish .ok]
  | .resetSelect => [.select, .finish .ok]
  | .writeRead resp => [.lock, .select, .writeTx] ++ (if resp then [.readRx] else []) ++ [.unlock, .finish .ok]
  | .acquire =>
    [.lock, .resumePower, .settle, .resetIgnored, .unlock, .set .clearQuirk, .set .acquire, .finish .ok]
  | .release => [.beginRelease]
  | .scan alarm _ => [.beginScan (searchCommand s.params alarm)]

/-- The session an operation asks for (R200). -/
def allowedIn (sess : Session) : Instr → Prop
  | .acquire => sess = .idle
  | .release | .scan _ _ => sess = .acquired
  | _ => True

/-- All an operation with a next state can do: run its program in the session it asks for, or be rejected. -/
theorem exec_program_or_reject {i : Instr} {s t : State} (h : exec i s = .next t) :
    (allowedIn s.sess i ∧ run (s.issue (programOf s i)) = .next t) ∨ ∃ e, t = s.reject e := by
  cases i <;> simp only [exec] at h
  case searchPass =>
    simp only [execSearchPass] at h
    split at h
    · exact .inl ⟨trivial, h⟩
    · cases h; exact .inr ⟨_, rfl⟩
  case acquire | release | scan =>
    simp only [execAcquire, execRelease, execScan] at h
    split at h
    · next hsess => exact .inl ⟨hsess, h⟩
    · cases h; exact .inr ⟨_, rfl⟩
  case writeRead =>
    simp only [execWriteRead] at h
    split at h
    · cases h
    · split at h
      · cases h
      · exact .inl ⟨trivial, h⟩
  case searchAll | readId | matchId | skip | resume | resetSelect => exact .inl ⟨trivial, h⟩

section
variable (s : State) (i : Instr)

theorem program_wellSequenced : wellSequenced (programOf s i) = true := by
  cases i with
  | writeRead resp => cases resp <;> rfl
  | _ => rfl

theorem program_positions : (programOf s i).all UOp.positionOk = true := by
  cases i with
  | writeRead resp => cases resp <;> rfl
  | _ => rfl

theorem program_brackets : (programOf s i).count .lock = (programOf s i).count .unlock := by
  cases i with
  | writeRead resp => cases resp <;> rfl
  | _ => rfl

theorem program_collects : (programOf s i).any UOp.collects = false := by
  cases i with
  | writeRead resp => cases resp <;> rfl
  | _ => rfl

theorem program_awaits : awaitsFound (programOf s i) = false ∧ awaitsReport (programOf s i) = false := by
  cases i <;> exact ⟨rfl, rfl⟩

theorem program_session {sess : Session} (h : sess = .idle ∨ sess = .acquired) (hi : allowedIn sess i) :
    sessionMatches sess (programOf s i).getLast? = true := by
  cases i with
  | writeRead resp => cases resp <;> rcases h with rfl | rfl <;> rfl
  | release | scan => rw [show sess = .acquired from hi]; rfl
  | _ => rcases h with rfl | rfl <;> rfl

theorem program_acquires (h : .set .acquire ∈ programOf s i) : i = .acquire := by
  cases i <;> simp [programOf, searchBody, matchFrame, skipFrame] at h ⊢

theorem program_ne_end (e : Err) : programOf s i ≠ [.scanEnd e] ∧ programOf s i ≠ [.idle e] := by
  cases i <;> simp [programOf, searchBody, matchFrame, skipFrame]

theorem issue_sequenced : (s.issue (programOf s i)).Sequenced where
  busy := by simpa [Status.issued] using wellSequenced_ne_nil (program_wellSequenced s i)
  inFlight _ := ⟨rfl, rfl⟩
  sequenced := .inr (program_wellSequenced s i)
  positions := program_positions s i

end

/-- Settles O56: the issue of an operation, and every step of the sequencer, keep `STATUS` and the sequencer in
step. -/
theorem statusWhileInFlight : Obligations.StatusWhileInFlight := by
  intro i s t h
  rcases exec_program_or_reject h with ⟨-, h⟩ | ⟨e, rfl⟩
  · have ht := run_sequenced (issue_sequenced s i) h
    exact ⟨ht.busy, ht.inFlight⟩
  · exact ⟨rfl, nofun⟩

/-! ### Operations and the host keep the invariant -/

namespace State.Consistent
variable {s : State} (hs : s.Consistent)
include hs

/-- With no operation in flight. -/
theorem seq_eq_nil (hb : s.status.busy = false) : s.seq = [] := by
  have h := hs.busy
  rw [hb] at h
  simpa using h.symm

theorem lockDepth_eq_zero (hb : s.status.busy = false) : s.lockDepth = 0 := by
  simpa [hs.seq_eq_nil hb] using hs.balanced

theorem session_of_idle (hb : s.status.busy = false) : s.sess = .idle ∨ s.sess = .acquired := by
  have h := hs.session
  rw [hs.seq_eq_nil hb] at h
  simpa [sessionMatches] using h

/-- An operation issued in the session it asks for. -/
theorem issue {i : Instr} (hb : s.status.busy = false) (hi : allowedIn s.sess i) :
    (s.issue (programOf s i)).Consistent where
  busy := (issue_sequenced s i).busy
  inFlight := (issue_sequenced s i).inFlight
  sequenced := (issue_sequenced s i).sequenced
  positions := (issue_sequenced s i).positions
  balanced := by
    rw [State.issue_lockDepth, hs.lockDepth_eq_zero hb, Nat.zero_add]
    exact program_brackets s i
  exclusive := hs.exclusive
  session := program_session s i (hs.session_of_idle hb) hi
  collecting h := by simp [program_collects] at h
  acquiring h := by
    obtain rfl := program_acquires s i h
    exact .inl hi
  record := hs.record
  quirk := hs.quirk
  emptied e h := absurd h (program_ne_end s i e).1
  cleared e h := absurd h (program_ne_end s i e).2
  found := by
    rw [State.issue_seq, (program_awaits s i).1]
    exact hs.found.trans (by rw [hs.seq_eq_nil hb]; rfl)
  report := by
    rw [State.issue_seq, (program_awaits s i).2]
    exact hs.report.trans (by rw [hs.seq_eq_nil hb]; rfl)
  buffers := hs.buffers

/-- An operation rejected before its first bus call. -/
theorem reject (hb : s.status.busy = false) (e : Err) : (s.reject e).Consistent := by
  have hseq := hs.seq_eq_nil hb
  obtain ⟨-, -, -, -, hbal, hex, hsess, -, -, hrec, hq, -, -, hfound, hreport, hbuf⟩ := hs
  rw [hseq] at hbal hsess hfound hreport
  exact ⟨rfl, nofun, .inl rfl, rfl, hbal, hex, hsess, nofun, nofun, hrec, hq, nofun, nofun, hfound, hreport, hbuf⟩

theorem exec {i : Instr} {t : State} (hb : s.status.busy = false) (h : Machine.exec i s = .next t) :
    t.Consistent := by
  rcases exec_program_or_reject h with ⟨hi, h⟩ | ⟨e, rfl⟩
  · exact run_consistent (hs.issue hb hi) h
  · exact hs.reject hb e

theorem command {w : Word} {t : State} (hb : s.status.busy = false) (h : Machine.command w s = .next t) :
    t.Consistent := by
  unfold Machine.command at h
  split at h
  · exact hs.exec hb h
  · cases h
    exact hs.reject hb _

theorem writeWord {off : Nat} {v : Word} {t : State} (h : Machine.writeWord off v s = .ok t) : t.Consistent := by
  unfold Machine.writeWord at h
  split at h <;> cases h <;> exact { hs with }

theorem writeByteAt {off : Nat} {v : Byte} {t : State} (h : Machine.writeByteAt off v s = .ok t) : t.Consistent := by
  unfold Machine.writeByteAt at h
  split at h
  · cases h
    exact { hs with buffers := ⟨Buffer.write_wf _ _ hs.buffers.1, hs.buffers.2⟩ }
  · split at h <;> cases h

theorem hostRead {off : Nat} {value : Except Fault Word} {t : State} (h : Machine.hostRead off value s = .next t) :
    t.Consistent := by
  obtain ⟨v, -, rfl⟩ := hostRead_eq_next h
  exact { hs with }

end State.Consistent

/-- Settles O17: at reset nothing is in flight, held, recorded or pending. -/
theorem resetIsConsistent : Obligations.ResetIsConsistent :=
  ⟨rfl, nofun, .inl rfl, rfl, rfl, fun _ => rfl, rfl, nofun, nofun, fun _ => rfl, fun _ => rfl, nofun, nofun, rfl,
    rfl, rfl, rfl⟩

theorem hardReset_consistent (s : State) : (hardReset s).Consistent :=
  { resetIsConsistent with exclusive := fun h => absurd rfl h }

namespace State.Consistent
variable {s : State} (hs : s.Consistent)
include hs

theorem hostIdle {a : HostInput} {t : State} (hb : s.status.busy = false) (h : Machine.hostIdle a s = .next t) :
    t.Consistent := by
  cases a <;> simp only [Machine.hostIdle] at h
  case write =>
    split at h
    · exact hs.command hb h
    · exact hs.writeWord (hostWrite_eq_next h)
  case writeByte => exact hs.writeByteAt (hostWrite_eq_next h)
  case read | readByte => exact hs.hostRead h
  case hardReset => cases h; exact hardReset_consistent s

theorem hostBusy {a : HostInput} {t : State} (h : Machine.hostBusy a s = .next t) : t.Consistent := by
  cases a <;> simp only [Machine.hostBusy] at h
  case write | writeByte => cases h; exact hs
  case read | readByte => exact hs.hostRead h
  case hardReset => cases h

/-- Taking an access off the host's list. -/
theorem access (rest : List HostInput) : { s with host := rest }.Consistent := { hs with }

end State.Consistent

/-- Settles O18: each step of the sequencer keeps the invariant, and so does each access of the host. -/
theorem everyStepKeepsConsistency : Obligations.EveryStepKeepsConsistency := by
  intro s t hs h
  rcases step_next_cases h with ⟨-, -, h⟩ | ⟨-, -, a, rest, -, h⟩ | ⟨hb, a, rest, -, h⟩ | ⟨-, -, rfl⟩
  · exact run_consistent hs h
  · exact (hs.access rest).hostBusy h
  · exact (hs.access rest).hostIdle hb h
  · exact hs

/-! ### The lock calls in the output (R33) -/

/-- The depth the engine holds the lock to has gained what the lock calls in the output have, less the unlock calls. -/
def LocksAccounted (s t : State) : Prop :=
  s.lockDepth + t.log.count .lock + s.log.count .unlock = t.lockDepth + s.log.count .lock + t.log.count .unlock

theorem LocksAccounted.trans {s t u : State} (h₁ : LocksAccounted s t) (h₂ : LocksAccounted t u) :
    LocksAccounted s u := by
  unfold LocksAccounted at *
  omega

theorem LocksAccounted.of_eq {s t : State} (hd : t.lockDepth = s.lockDepth) (hl : t.log = s.log) :
    LocksAccounted s t := by
  rw [LocksAccounted, hd, hl]

/-- Entries in the output that are no lock calls. -/
theorem LocksAccounted.of_gained {s t : State} {l : List Event} (hd : t.lockDepth = s.lockDepth) (hl : Gained s t l)
    (hlock : .lock ∉ l) (hunlock : .unlock ∉ l) : LocksAccounted s t := by
  rw [LocksAccounted, hd, hl, List.count_append, List.count_append, List.count_eq_zero_of_not_mem hlock,
    List.count_eq_zero_of_not_mem hunlock]
  omega

theorem Asked.locksAccounted {s s' : State} (h : Asked s s') : LocksAccounted s s' := by
  obtain ⟨b, l, rfl, -, hl⟩ := h.eq_bus_log
  exact .of_gained (l := l) rfl rfl (fun h => by cases hl _ h) fun h => by cases hl _ h

/-- The effects that put a lock call or an unlock call in the output are those of the two entries. -/
theorem UOp.effect_log_count (s : State) (u : UOp) :
    (u.effect s).log.count .lock = s.log.count .lock + [u].count .lock ∧
      (u.effect s).log.count .unlock = s.log.count .unlock + [u].count .unlock := by
  unfold effect
  split <;> simp_all

theorem transact_locksAccounted {s t : State} (hs : s.Consistent) (h : transact s = .moved t) :
    LocksAccounted s t := by
  obtain ⟨u, k, s', k', hseq, hask, rfl, -, -⟩ := transact_cases hs.toSequenced h
  refine hask.locksAccounted.trans ?_
  have hdepth := (hask.consistent hs).effect_lockDepth (hask.seq.trans hseq)
  obtain ⟨hlock, hunlock⟩ := UOp.effect_log_count s' u
  simp only [LocksAccounted, State.goto_lockDepth, State.goto_log, hlock, hunlock]
  omega

theorem run_locksAccounted {s t : State} (hs : s.Consistent) (h : run s = .next t) : LocksAccounted s t :=
  (run_induct (P := fun t => t.Consistent ∧ LocksAccounted s t)
    (fun _ _ hp hm => ⟨transact_consistent hp.1 hm, hp.2.trans (transact_locksAccounted hp.1 hm)⟩)
    ⟨hs, .of_eq rfl rfl⟩ h).1.2

theorem exec_locksAccounted {i : Instr} {s t : State} (hs : s.Consistent) (hb : s.status.busy = false)
    (h : exec i s = .next t) : LocksAccounted s t := by
  rcases exec_program_or_reject h with ⟨hi, h⟩ | ⟨e, rfl⟩
  · exact LocksAccounted.trans (t := s.issue (programOf s i)) (.of_eq rfl rfl) (run_locksAccounted (hs.issue hb hi) h)
  · exact .of_eq rfl rfl

theorem hostRead_locksAccounted {off : Nat} {value : Except Fault Word} {s t : State}
    (h : hostRead off value s = .next t) : LocksAccounted s t := by
  obtain ⟨v, -, rfl⟩ := hostRead_eq_next h
  exact .of_gained (l := [.hostRead off v]) rfl rfl (by simp) (by simp)

theorem writeWord_lockDepth {off : Nat} {v : Word} {s t : State} (h : writeWord off v s = .ok t) :
    t.lockDepth = s.lockDepth := by
  unfold writeWord at h
  split at h <;> cases h <;> rfl

theorem writeByteAt_lockDepth {off : Nat} {v : Byte} {s t : State} (h : writeByteAt off v s = .ok t) :
    t.lockDepth = s.lockDepth := by
  unfold writeByteAt at h
  split at h
  · cases h; rfl
  · split at h <;> cases h

theorem hostIdle_locksAccounted {a : HostInput} {s t : State} (hs : s.Consistent) (hb : s.status.busy = false)
    (h : hostIdle a s = .next t) : LocksAccounted s t := by
  cases a <;> simp only [hostIdle, command] at h
  case write =>
    split at h
    · split at h
      · exact exec_locksAccounted hs hb h
      · cases h; exact .of_eq rfl rfl
    · have h := hostWrite_eq_next h
      exact .of_eq (writeWord_lockDepth h) (writeWord_bus_log h).2
  case writeByte =>
    have h := hostWrite_eq_next h
    exact .of_eq (writeByteAt_lockDepth h) (writeByteAt_bus_log h).2
  case read | readByte => exact hostRead_locksAccounted h
  case hardReset => cases h; exact .of_eq (hs.lockDepth_eq_zero hb).symm rfl

theorem hostBusy_locksAccounted {a : HostInput} {s t : State} (h : hostBusy a s = .next t) : LocksAccounted s t := by
  cases a <;> simp only [hostBusy] at h
  case write | writeByte => cases h; exact .of_eq rfl rfl
  case read | readByte => exact hostRead_locksAccounted h
  case hardReset => cases h

theorem step_locksAccounted {s t : State} (hs : s.Consistent) (h : step s = .next t) : LocksAccounted s t := by
  rcases step_next_cases h with ⟨-, -, h⟩ | ⟨-, -, a, rest, -, h⟩ | ⟨hb, a, rest, -, h⟩ | ⟨-, -, rfl⟩
  · exact run_locksAccounted hs h
  · exact LocksAccounted.trans (t := { s with host := rest }) (.of_eq rfl rfl) (hostBusy_locksAccounted h)
  · exact LocksAccounted.trans (t := { s with host := rest }) (.of_eq rfl rfl)
      (hostIdle_locksAccounted (hs.access rest) hb h)
  · exact .of_eq rfl rfl

/-- Settles O19: a consistent state with no operation in flight has no bracket open, and every step accounts for the
lock calls it makes. -/
theorem noLockIsLeaked : Obligations.NoLockIsLeaked := fun _ _ hs h =>
  ⟨(everyStepKeepsConsistency _ _ hs h).lockDepth_eq_zero, step_locksAccounted hs h⟩

/-! ### Which entries each operation uses -/

/-- The operation whose search loop delivers in this mode. -/
def loopsIn (i : Instr) : SearchMode → Prop
  | .emit => ∃ alarm fam, i = .searchAll alarm fam
  | .collect => ∃ alarm fam, i = .scan alarm fam

/-- The operation runs the search loop. -/
def loops (i : Instr) : Prop := loopsIn i .emit ∨ loopsIn i .collect

/-- The operation makes search passes. -/
def makesPasses (i : Instr) : Prop := (∃ alarm fam, i = .searchPass alarm fam) ∨ loops i

/-- The operation can hold this entry in the sequencer; a response is no longer than `n`, the length asked for. -/
def usedBy (i : Instr) (n : Nat) : UOp → Prop
  | .lock | .unlock | .finish _ => True
  | .resetAddressed | .writeByte _ => isAddressing i = true ∨ i = .release
  | .writeId => i = .matchId ∨ i = .resetSelect ∨ ∃ resp, i = .writeRead resp
  | .select => i = .resetSelect ∨ ∃ resp, i = .writeRead resp
  | .writeTx => ∃ resp, i = .writeRead resp
  | .readRx => i = .writeRead true
  | .set (.response bs) => i = .writeRead true ∧ bs.length ≤ n
  | .readId | .checksum _ | .set (.identifier _) => i = .readId
  | .resetIgnored | .resumePower | .settle | .set .clearQuirk | .set .acquire => i = .acquire
  | .beginRelease | .quirkStep | .quirkCatch _ | .suspendPower | .released _ | .idle _ => i = .release
  | .passReset _ none | .passCommand _ | .passTrue _ _ | .passComplement _ _ _ | .passWrite _ _ _
  | .set (.cursor _) | .set (.chosenBit _ _) => makesPasses i
  | .passReset _ (some mode) | .afterPass _ mode | .loopTest _ mode => loopsIn i mode
  | .countUp | .set .identify | .set .clearAcc | .set .clearCount => loops i
  | .emitFound | .awaitFound => loopsIn i .emit
  | .append | .set .flagQuirk | .beginScan _ | .scanQuirk _ | .scanRecord _ | .scanCatch _ | .report _ _
  | .emitReport _ _ | .awaitReport _ _ | .reportFailed _ _ | .scanEnd _ => loopsIn i .collect

theorem loops_of_loopsIn {i : Instr} {mode : SearchMode} (h : loopsIn i mode) : loops i := by
  cases mode
  · exact .inl h
  · exact .inr h

theorem program_usedBy (s : State) (i : Instr) : ∀ u ∈ programOf s i, usedBy i s.rxlen u := by
  cases i with
  | writeRead resp => cases resp <;> simp [programOf, usedBy, isAddressing]
  | _ => simp [programOf, searchBody, matchFrame, skipFrame, usedBy, isAddressing, makesPasses, loops, loopsIn]

theorem unwind_usedBy {i : Instr} {n : Nat} {k : List UOp} (h : ∀ u ∈ k, usedBy i n u) (e : Err) :
    ∀ u ∈ unwind e k, usedBy i n u := by
  induction k with
  | nil => simp [unwind, usedBy]
  | cons v k ih =>
    obtain ⟨hv, hk⟩ := List.forall_mem_cons.1 h
    cases v with
    | unlock => exact List.forall_mem_cons.2 ⟨hv, ih hk⟩
    | quirkCatch | scanCatch | released | finish => exact List.forall_mem_cons.2 ⟨hv, hk⟩
    | _ => exact ih hk

theorem Pushes.usedBy {s : State} {i : Instr} {u : UOp} {l : List UOp} (h : Pushes s u l)
    (hu : usedBy i s.rxlen u) : ∀ v ∈ l, usedBy i s.rxlen v := by
  cases h with
  | select =>
    unfold selectFrame
    split <;> rcases hu with rfl | ⟨resp, rfl⟩ <;> simp [matchFrame, skipFrame, Machine.usedBy, isAddressing]
  | quirkStep => obtain rfl := hu; simp [quirkFrame, skipFrame, Machine.usedBy]
  | readRx bs h => exact List.forall_mem_singleton.2 ⟨hu, h⟩
  | passReset scmd after | noPresence scmd after =>
    cases after with
    | none => exact List.forall_mem_singleton.2 hu
    | some mode =>
      simpa [afterReset, Machine.usedBy] using And.intro (.inr (loops_of_loopsIn hu)) hu
  | passWrite pos next d =>
    have hu : makesPasses i := hu
    unfold afterWrite
    split <;> simpa [Machine.usedBy] using hu
  | afterPass scmd mode =>
    have hloops := loops_of_loopsIn hu
    cases mode <;> simpa [deliver, Machine.usedBy, hloops] using hu
  | readId | checksum | passCommand | passTrue | noDevice | direction | emitFound | loopTest =>
    exact List.forall_mem_singleton.2 hu

theorem Replaces.usedBy {s : State} {i : Instr} {n : Nat} {u : UOp} {l : List UOp} (h : Replaces s u l)
    (hu : usedBy i n u) : ∀ v ∈ l, usedBy i n v := by
  cases h with
  | beginRelease => simpa [Machine.usedBy] using hu
  | scanRecord =>
    have hu : loopsIn i .collect := hu
    simp [searchBody, Machine.usedBy, makesPasses, loops, hu]
  | finish => simp
  | idle | scanEnd => exact List.forall_mem_singleton.2 trivial
  | released | beginScan | scanQuirk | scanCatch | reported | report | emitReport | callbackFailed | callbackOk
  | reportFailed => exact List.forall_mem_singleton.2 hu

/-- The step of an entry that an operation uses leaves entries that it uses. -/
theorem Sequel.usedBy {s : State} {i : Instr} {u : UOp} {k k' : List UOp} (h : Sequel s u k k')
    (hu : ∀ v ∈ u :: k, usedBy i s.rxlen v) : ∀ v ∈ k', usedBy i s.rxlen v := by
  obtain ⟨hu, hk⟩ := List.forall_mem_cons.1 hu
  cases h with
  | rest => exact hk
  | raised _ e => exact unwind_usedBy hk e
  | pushed hl => exact List.forall_mem_append.2 ⟨hl.usedBy hu, hk⟩
  | replaced hl => exact hl.usedBy hu

/-! ### What an operation keeps -/

@[simp] theorem UOp.effect_rxlen (s : State) (u : UOp) : (u.effect s).rxlen = s.rxlen := by
  unfold effect
  split <;> simp

/-- The induction of an operation: what holds of it issued, or rejected, and is kept by the effects of the entries it
uses, whatever the sequencer, the transport and the transport calls in the output are, holds where it ends or waits. -/
theorem exec_induct {i : Instr} {s t : State} {P : State → Prop} (h : exec i s = .next t)
    (issued : P (s.issue (programOf s i))) (rejected : ∀ e, P (s.reject e))
    (goto : ∀ a k, P a → P (a.goto k)) (asked : ∀ a b, Asked a b → P a → P b)
    (effect : ∀ a u, usedBy i s.rxlen u → P a → P (u.effect a)) : P t := by
  rcases exec_program_or_reject h with ⟨-, h⟩ | ⟨e, rfl⟩
  · refine (run_induct (P := fun a => (P a ∧ a.Sequenced ∧ a.rxlen = s.rxlen) ∧ ∀ u ∈ a.seq, usedBy i s.rxlen u)
      ?_ ⟨⟨issued, issue_sequenced s i, rfl⟩, program_usedBy s i⟩ h).1.1.1
    rintro a b ⟨⟨hp, hs, hn⟩, hu⟩ hm
    obtain ⟨u, k, a', k', hseq, hask, rfl, hk, -⟩ := transact_cases hs hm
    rw [hseq] at hu
    obtain ⟨bus, l, rfl, -⟩ := hask.eq_bus_log
    have hp' := goto _ k' (effect _ u (hu u List.mem_cons_self) (asked _ _ hask hp))
    exact ⟨⟨hp', transact_sequenced hs hm, by simp [hn]⟩, hn ▸ hk.usedBy (hn ▸ hu)⟩
  · exact rejected e

/-- A view of the state that does not look at the sequencer, the transport or the output, and that the effects of the
entries an operation uses keep: it is at the end what the issue, or the rejection, made it. -/
theorem exec_keeps {i : Instr} {s t : State} {α : Type} {f : State → α} {c : α} (h : exec i s = .next t)
    (issued : f (s.issue (programOf s i)) = c) (rejected : ∀ e, f (s.reject e) = c)
    (frame : ∀ a k b l, f { a with seq := k, bus := b, log := l } = f a)
    (effect : ∀ a u, usedBy i s.rxlen u → f (u.effect a) = f a) : f t = c := by
  refine exec_induct (P := fun a => f a = c) h issued rejected (fun a k ha => (frame a k _ _).trans ha)
    (fun a b hab ha => ?_) fun a u hu ha => (effect a u hu).trans ha
  obtain ⟨bus, l, rfl, -⟩ := hab.eq_bus_log
  exact (frame a _ _ _).trans ha

/-- No effect writes a register of the host. -/
theorem UOp.effect_hostRegisters (s : State) (u : UOp) :
    (u.effect s).pcount = s.pcount ∧ (u.effect s).txlen = s.txlen := by
  unfold effect
  split <;> simp

/-- No operation writes a register of the host (R106). -/
theorem exec_keepsHostRegisters {i : Instr} {s t : State} (h : exec i s = .next t) : KeepsHostRegisters s t := by
  have hf := exec_keeps (f := fun a => (a.pcount, a.txlen, a.rxlen, a.params, a.txbuf)) h rfl (fun _ => rfl)
    (fun _ _ _ _ => rfl) fun a u _ => by simp [UOp.effect_hostRegisters]
  simp only [Prod.mk.injEq] at hf
  obtain ⟨hpcount, htxlen, hrxlen, hparams, htxbuf⟩ := hf
  exact ⟨hpcount, htxlen, hrxlen, hparams, fun k => congrArg (Buffer.read? · k) htxbuf⟩

/-- Only a WRITE_READ with a response writes `RXBUF`. -/
theorem exec_keepsRxbuf {i : Instr} {s t : State} (h : exec i s = .next t) (hi : i ≠ .writeRead true) :
    KeepsRxbuf s t := by
  refine fun k => congrArg (Buffer.read? · k) (exec_keeps (f := State.rxbuf) h rfl (fun _ => rfl)
    (fun _ _ _ _ => rfl) fun a u hu => ?_)
  rcases UOp.effect_rxbuf a u with h' | ⟨bs, rfl, -⟩
  · exact h'
  · exact absurd hu.1 hi

/-- A WRITE_READ with a response writes no byte of `RXBUF` beyond the response's length. -/
theorem exec_keepsRxbuf_beyond {i : Instr} {s t : State} {j : Nat} (hwf : s.rxbuf.wf = true) (hj : s.rxlen ≤ j)
    (h : exec i s = .next t) : t.rxbuf.read? j = s.rxbuf.read? j := by
  refine (exec_induct (P := fun a => a.rxbuf.wf = true ∧ a.rxbuf.read? j = s.rxbuf.read? j) h ⟨hwf, rfl⟩
    (fun _ => ⟨hwf, rfl⟩) (fun _ _ ha => ha) (fun a b hab ha => ?_) fun a u hu ha => ?_).2
  · obtain ⟨bus, l, rfl, -⟩ := hab.eq_bus_log
    exact ha
  · refine ⟨UOp.effect_rxbuf_wf a u ha.1, ?_⟩
    rcases UOp.effect_rxbuf a u with h' | ⟨bs, rfl, h'⟩ <;> rw [h']
    · exact ha.2
    · have hlen : bs.length ≤ s.rxlen := hu.2
      rw [Buffer.read_writeBlock ha.1, if_neg (by omega), ha.2]

/-- What an operation leaves alone between two states, by the entries it does not use. -/
structure Untouched (i : Instr) (s t : State) : Prop where
  ld : ¬makesPasses i → t.ld = s.ld
  acc : ¬makesPasses i → t.acc = s.acc
  count : ¬loops i → t.count = s.count
  host : ¬loops i → t.host = s.host
  id : i ≠ .readId → ¬loops i → t.id = s.id
  sess : i ≠ .acquire → i ≠ .release → ¬loopsIn i .collect → t.sess = s.sess
  quirk : i ≠ .acquire → i ≠ .release → ¬loopsIn i .collect → t.quirk = s.quirk
  scanrec : ¬loopsIn i .collect → t.scanrec = s.scanrec
  found : ¬loopsIn i .emit → t.status.foundPending = s.status.foundPending
  report : ¬loopsIn i .collect → t.status.reportPending = s.status.reportPending
  wQuirk : i ≠ .release → t.status.wQuirk = s.status.wQuirk
  wCallback : ¬loopsIn i .collect → t.status.wCallback = s.status.wCallback

theorem Untouched.trans {i : Instr} {s t u : State} (h₁ : Untouched i s t) (h₂ : Untouched i t u) :
    Untouched i s u where
  ld h := (h₂.ld h).trans (h₁.ld h)
  acc h := (h₂.acc h).trans (h₁.acc h)
  count h := (h₂.count h).trans (h₁.count h)
  host h := (h₂.host h).trans (h₁.host h)
  id h h' := (h₂.id h h').trans (h₁.id h h')
  sess h h' h'' := (h₂.sess h h' h'').trans (h₁.sess h h' h'')
  quirk h h' h'' := (h₂.quirk h h' h'').trans (h₁.quirk h h' h'')
  scanrec h := (h₂.scanrec h).trans (h₁.scanrec h)
  found h := (h₂.found h).trans (h₁.found h)
  report h := (h₂.report h).trans (h₁.report h)
  wQuirk h := (h₂.wQuirk h).trans (h₁.wQuirk h)
  wCallback h := (h₂.wCallback h).trans (h₁.wCallback h)

/-- The effects of the entries an operation uses. -/
theorem UOp.effect_untouched {i : Instr} {n : Nat} {u : UOp} (s : State) (hu : usedBy i n u) :
    Untouched i s (u.effect s) := by
  unfold effect
  split
  case h_1 v => cases v <;> constructor <;> simp_all [usedBy, makesPasses, loops, State.apply]
  all_goals constructor <;> simp_all [usedBy, loops, Status.warned, Status.completed, State.apply]

/-- An operation against the state it was issued in. -/
theorem exec_untouched {i : Instr} {s t : State} (h : exec i s = .next t) : Untouched i (s.issue []) t := by
  refine exec_induct (P := Untouched i (s.issue [])) h ?_ ?_ ?_ ?_ ?_
  · constructor <;> intros <;> rfl
  · intro e
    constructor <;> intros <;> rfl
  · exact fun a k ha => { ha with }
  · intro a b hab ha
    obtain ⟨bus, l, rfl, -⟩ := hab.eq_bus_log
    exact { ha with }
  · exact fun a u hu ha => ha.trans (UOp.effect_untouched a hu)

theorem not_makesPasses_of_isAddressing {i : Instr} (h : isAddressing i = true) : ¬makesPasses i := by
  cases i <;> simp_all [isAddressing, makesPasses, loops, loopsIn]

/-- Settles O32: no addressing operation uses an entry that writes any of these. -/
theorem addressingFrame : Obligations.AddressingFrame := by
  intro i s t hi hwf h
  have hpass := not_makesPasses_of_isAddressing hi
  have hloops : ¬loops i := fun h => hpass (.inr h)
  have hemit : ¬loopsIn i .emit := fun h => hloops (.inl h)
  have hcollect : ¬loopsIn i .collect := fun h => hloops (.inr h)
  have hacquire : i ≠ .acquire := by rintro rfl; cases hi
  have hrelease : i ≠ .release := by rintro rfl; cases hi
  have hu := exec_untouched h
  refine ⟨exec_keepsHostRegisters h, ⟨hu.ld hpass, hu.acc hpass⟩, hu.count hloops,
    ⟨hu.sess hacquire hrelease hcollect, hu.quirk hacquire hrelease hcollect, hu.scanrec hcollect⟩,
    ⟨hu.found hemit, hu.report hcollect⟩, ⟨hu.wQuirk hrelease, hu.wCallback hcollect⟩, hu.host hloops,
    fun hid => hu.id hid hloops, fun k hk => ?_⟩
  by_cases hresp : i = .writeRead true
  · exact exec_keepsRxbuf_beyond hwf (not_lt.1 fun hlt => hk ⟨hresp, hlt⟩) h
  · exact exec_keepsRxbuf h hresp k

/-- Settles O42: a pass writes the cursor only, the loop with its host also the count, the identifier and the pending
found event. -/
theorem searchFrame : Obligations.SearchFrame := by
  intro s t alarm fam
  refine ⟨fun h => ?_, fun h => ?_⟩
  · have hu := exec_untouched h
    have hloops : ¬loops (.searchPass alarm fam) := by simp [loops, loopsIn]
    have hemit : ¬loopsIn (.searchPass alarm fam) .emit := fun h => hloops (.inl h)
    have hcollect : ¬loopsIn (.searchPass alarm fam) .collect := fun h => hloops (.inr h)
    exact ⟨exec_keepsHostRegisters h,
      ⟨hu.sess nofun nofun hcollect, hu.quirk nofun nofun hcollect, hu.scanrec hcollect⟩, exec_keepsRxbuf h nofun,
      ⟨hu.wQuirk nofun, hu.wCallback hcollect⟩, ⟨hu.found hemit, hu.report hcollect⟩,
      hu.id nofun hloops, hu.count hloops, hu.host hloops⟩
  · have hu := exec_untouched h
    have hcollect : ¬loopsIn (.searchAll alarm fam) .collect := by simp [loopsIn]
    exact ⟨exec_keepsHostRegisters h,
      ⟨hu.sess nofun nofun hcollect, hu.quirk nofun nofun hcollect, hu.scanrec hcollect⟩, exec_keepsRxbuf h nofun,
      ⟨hu.wQuirk nofun, hu.wCallback hcollect⟩, hu.report hcollect⟩

/-- Settles O52: ACQUIRE and RELEASE use no entry of a search. -/
theorem sessionFrame : Obligations.SessionFrame := by
  intro s t
  refine ⟨fun i hi h => ?_, fun alarm fam h => ?_⟩
  · have hu := exec_untouched h
    have hpass : ¬makesPasses i := by rcases hi with rfl | rfl <;> simp [makesPasses, loops, loopsIn]
    have hloops : ¬loops i := fun h => hpass (.inr h)
    have hemit : ¬loopsIn i .emit := fun h => hloops (.inl h)
    have hcollect : ¬loopsIn i .collect := fun h => hloops (.inr h)
    have hid : i ≠ .readId := by rcases hi with rfl | rfl <;> nofun
    have hresp : i ≠ .writeRead true := by rcases hi with rfl | rfl <;> nofun
    refine ⟨exec_keepsHostRegisters h, exec_keepsRxbuf h hresp, ⟨hu.ld hpass, hu.acc hpass⟩,
      hu.id hid hloops, hu.count hloops, hu.scanrec hcollect, ⟨hu.found hemit, hu.report hcollect⟩, hu.host hloops,
      hu.wCallback hcollect, ?_⟩
    rintro rfl
    exact hu.wQuirk nofun
  · have hu := exec_untouched h
    exact ⟨exec_keepsHostRegisters h, exec_keepsRxbuf h nofun, hu.wQuirk nofun,
      hu.found (by simp [loopsIn])⟩

/-! ### Warnings -/

/-- Warnings in the output go with their flags: what `t`'s output gained on `s`'s says which of them are set. -/
def WarningsShown (s t : State) : Prop :=
  ∃ l, Gained s t l ∧ (t.status.wQuirk = true ↔ .warn .quirk ∈ l) ∧
    (t.status.wCallback = true ↔ .warn .callback ∈ l)

/-- An effect is a warning, or puts none in the output and sets neither flag. -/
theorem UOp.effect_warning (s : State) (u : UOp) :
    (∃ w, u.effect s = s.warn w) ∨
      ∃ l, Gained s (u.effect s) l ∧ (∀ w, .warn w ∉ l) ∧ (u.effect s).status.wQuirk = s.status.wQuirk ∧
        (u.effect s).status.wCallback = s.status.wCallback := by
  cases u with
  | reportFailed => exact .inl ⟨.callback, rfl⟩
  | lock | unlock | checksum | settle | emitFound | emitReport => exact .inr ⟨[_], rfl, by simp, rfl, rfl⟩
  | quirkCatch failed =>
    cases failed
    · exact .inr ⟨[], rfl, by simp, rfl, rfl⟩
    · exact .inl ⟨.quirk, rfl⟩
  | report e todo => cases todo <;> exact .inr ⟨[], rfl, by simp, rfl, rfl⟩
  | set v => exact .inr ⟨[], by simp [effect, Gained], by simp [effect]⟩
  | _ => exact .inr ⟨[], rfl, by simp, rfl, rfl⟩

theorem WarningsShown.warn {s t : State} (h : WarningsShown s t) (w : Warning) : WarningsShown s (t.warn w) := by
  obtain ⟨l, hl, hq, hc⟩ := h
  refine ⟨.warn w :: l, congrArg (_ :: ·) hl, ?_⟩
  cases w <;> simp [Status.warned, hq, hc]

theorem WarningsShown.of_gained {s t u : State} {l : List Event} (h : WarningsShown s t) (hl : Gained t u l)
    (hw : ∀ w, .warn w ∉ l) (hq : u.status.wQuirk = t.status.wQuirk) (hc : u.status.wCallback = t.status.wCallback) :
    WarningsShown s u := by
  obtain ⟨l', hl', hq', hc'⟩ := h
  refine ⟨l ++ l', by rw [Gained, hl, hl', List.append_assoc], ?_⟩
  simp [hq, hc, hq', hc', hw]

theorem exec_warningsShown {i : Instr} {s t : State} (h : exec i s = .next t) : WarningsShown s t := by
  have hnone : WarningsShown s (s.issue []) := ⟨[], rfl, by simp [Status.issued], by simp [Status.issued]⟩
  refine exec_induct (P := WarningsShown s) h hnone (fun _ => hnone) (fun _ _ ha => ha) (fun a b hab ha => ?_)
    fun a u _ ha => ?_
  · obtain ⟨bus, l, rfl, -, hl⟩ := hab.eq_bus_log
    exact ha.of_gained (l := l) rfl (fun w hw => by cases hl _ hw) rfl rfl
  · rcases UOp.effect_warning a u with ⟨w, hw⟩ | ⟨l, hl, hw, hq, hc⟩
    · rw [hw]; exact ha.warn w
    · exact ha.of_gained hl hw hq hc

/-- Settles O55: only RELEASE uses the entry that sets `W_QUIRK` and only SCAN the one that sets `W_CALLBACK`, and each
warning is put in the output as its flag is set. -/
theorem warningsOnlyFromReleaseAndScan : Obligations.WarningsOnlyFromReleaseAndScan := by
  intro i s t l h hl
  obtain ⟨l', hl', hq, hc⟩ := exec_warningsShown h
  obtain rfl := List.append_cancel_right (hl.symm.trans hl')
  have hu := exec_untouched h
  refine ⟨fun hw => ?_, fun hw => ?_, hq, hc⟩
  · by_contra hi
    exact Bool.false_ne_true ((hu.wQuirk hi).symm.trans hw)
  · by_contra hi
    exact Bool.false_ne_true ((hu.wCallback hi).symm.trans hw)

/-! ### The words of the registers -/

/-- Settles O8: each field of the word is the part of it that starts and ends where R35 says. -/
theorem statusWordFields : Obligations.StatusWordFields := by
  intro st q se
  simp (disch := decide) only [statusWord, BitVec.extractLsb'_append_eq_of_le,
    BitVec.extractLsb'_append_eq_of_add_le, Nat.reduceSub, BitVec.extractLsb'_eq_self]
  refine ⟨?_, ?_, ?_, ?_, ?_, ?_, ?_, ?_, rfl, ?err, ?sess⟩
  case err => cases st.err <;> rfl
  case sess => cases se <;> rfl
  all_goals
    simp only [BitVec.getLsbD_append]
    simp

/-- The accumulator of an identifier is its two words, `ID_HI` and `ID_LO`. -/
theorem accOf_eq_append (i : Identifier) :
    accOf i =
      (i.checksum ++ i.serial6 ++ i.serial5 ++ i.serial4 : Word) ++
        (i.serial3 ++ i.serial2 ++ i.serial1 ++ i.family : Word) := by
  apply BitVec.eq_of_toNat_eq
  simp only [accOf, BitVec.toNat_append, Nat.shiftLeft_or_distrib, ← Nat.shiftLeft_add, Nat.lor_assoc]

/-- The low word of two put together, and the high word. -/
theorem extractLsb'_append_lo (hi lo : Word) : (hi ++ lo).extractLsb' 0 32 = lo :=
  (BitVec.extractLsb'_append_eq_of_add_le le_rfl).trans BitVec.extractLsb'_eq_self

theorem extractLsb'_append_hi (hi lo : Word) : (hi ++ lo).extractLsb' 32 32 = hi :=
  (BitVec.extractLsb'_append_eq_of_le le_rfl).trans BitVec.extractLsb'_eq_self

theorem idLo_eq (i : Identifier) :
    (accOf i).extractLsb' 0 32 = i.serial3 ++ i.serial2 ++ i.serial1 ++ i.family := by
  rw [accOf_eq_append, extractLsb'_append_lo]

theorem idHi_eq (i : Identifier) :
    (accOf i).extractLsb' 32 32 = i.checksum ++ i.serial6 ++ i.serial5 ++ i.serial4 := by
  rw [accOf_eq_append, extractLsb'_append_hi]

/-- A word is the four bytes cut from it. -/
theorem append_bytes (v : Word) :
    (v.extractLsb' 24 8 ++ v.extractLsb' 16 8 ++ v.extractLsb' 8 8 ++ v.extractLsb' 0 8 : Word) = v := by
  simp (disch := decide) only [BitVec.extractLsb'_append_extractLsb'_eq_extractLsb']
  exact BitVec.extractLsb'_eq_self

/-- An accumulator put together from two words, cut into the bytes of an identifier. -/
theorem idOf_append (hi lo : Word) :
    idOf (hi ++ lo) =
      ⟨lo.extractLsb' 0 8, lo.extractLsb' 8 8, lo.extractLsb' 16 8, lo.extractLsb' 24 8, hi.extractLsb' 0 8,
        hi.extractLsb' 8 8, hi.extractLsb' 16 8, hi.extractLsb' 24 8⟩ := by
  simp (disch := decide) only [idOf, BitVec.extractLsb'_append_eq_of_le, BitVec.extractLsb'_append_eq_of_add_le,
    Nat.reduceSub]

/-! ### Steps that serve the host -/

section
variable {s : State} {a : HostInput} {rest : List HostInput}

theorem step_idle (hb : s.status.busy = false) (hh : s.host = a :: rest) :
    step s = hostIdle a { s with host := rest } := by
  simp [step, hb, hh]

theorem step_waiting (hb : s.status.busy = true) (hw : transact s = .waiting) (hh : s.host = a :: rest) :
    step s = hostBusy a { s with host := rest } := by
  simp [step, hb, hw, hh]

/-- A write of a word register other than `CMD`. -/
theorem step_writeWord {off : Nat} {v : Word} (hb : s.status.busy = false) (hh : s.host = .write off v :: rest)
    (hoff : off ≠ cmdOffset) : step s = hostWrite (writeWord off v { s with host := rest }) := by
  rw [step_idle hb hh, hostIdle, if_neg hoff]

/-- A read of a byte that has a value, and of one that has none. -/
theorem step_readByte_ok {off : Nat} {b : Byte} (hb : s.status.busy = false) (hh : s.host = .readByte off :: rest)
    (hr : readByteAt off s = .ok b) :
    step s = .next { s with host := rest, log := .hostRead off (b.setWidth 32) :: s.log } := by
  have hr : readByteAt off { s with host := rest } = .ok b := hr
  rw [step_idle hb hh, hostIdle, byteRead, hr]
  rfl

theorem step_readByte_error {off : Nat} {f : Fault} (hb : s.status.busy = false) (hh : s.host = .readByte off :: rest)
    (hr : readByteAt off s = .error f) : step s = .fault f := by
  have hr : readByteAt off { s with host := rest } = .error f := hr
  rw [step_idle hb hh, hostIdle, byteRead, hr]
  rfl

end

/-- Settles O9: offset 0 is `CMD`, so the idle port decodes the word. -/
theorem stepRunsTheDecodedCommand : Obligations.StepRunsTheDecodedCommand := by
  intro s w rest i hb hh hd
  rw [step_idle hb hh, hostIdle, if_pos (show 0 = cmdOffset from rfl), command, hd]

/-- Settles O10: the word placed is a write to `CMD`, the host's next access. -/
theorem placedWordIsRunNext : Obligations.PlacedWordIsRunNext := by
  intro s w i h
  have hd : decode (BitVec.ofNat 32 (w % 2 ^ 16)) = .ok i := by
    unfold decodeTableWord at h
    split at h
    · next hd => rw [hd, Option.some.inj h]
    · cases h
  exact stepRunsTheDecodedCommand (s.withFetchWord 16 w) _ s.host i rfl rfl hd

/-- Settles O11: what the sequencer leaves to `hostBusy`, and the three of its own steps that look at the host. -/
theorem hostAccessWhileBusy : Obligations.HostAccessWhileBusy := by
  intro s a rest hb hh
  refine ⟨?_, ?_, ?_, ?_, ?_, ?_⟩
  · rintro hw off v (rfl | ⟨b, rfl⟩) <;> exact step_waiting hb hw hh
  · rintro hw off v rfl hv
    have hv : readWord off { s with host := rest } = .ok v := hv
    rw [step_waiting hb hw hh, hostBusy, hv]
    rfl
  · rintro hw off b rfl hv
    have hv : readByteAt off { s with host := rest } = .ok b := hv
    rw [step_waiting hb hw hh, hostBusy, byteRead, hv]
    rfl
  · rintro k v hs rfl hv
    simp [transact, hs, stepAwaitFound, hh, takesEvent, hv, State.foundTaken, State.goto]
  · rintro e todo k v hs rfl hv
    simp [transact, hs, stepAwaitReport, hh, takesEvent, callbackFailed, hv, State.reportTaken, State.goto]
  · rintro e todo k hs
    simp only [transact, hs]
    rfl

/-- Settles O15: the idle port resets, the busy port refuses. -/
theorem hardwareReset : Obligations.HardwareReset := fun _ _ hh =>
  ⟨fun hb => step_idle hb hh, fun hb hw => step_waiting hb hw hh⟩

/-- Settles O16: the reset state field by field. -/
theorem resetValues : Obligations.ResetValues :=
  ⟨rfl, rfl, rfl, rfl, rfl, rfl, rfl, fun _ => ⟨rfl, rfl⟩, rfl, rfl, rfl, rfl, rfl, rfl⟩

/-- Settles O24: the loop's step after a pass that found a device, and the step that counts it. -/
theorem countOverflowIsRefused : Obligations.CountOverflowIsRefused := by
  intro s k
  refine ⟨fun scmd mode hs hld => ?_, fun hs hc => ?_, fun hs hc => ?_⟩
  · refine ⟨.set .identify :: (deliver mode ++ .loopTest scmd mode :: k), ?_⟩
    simp only [transact, hs, stepAfterPass]
    exact if_neg hld
  · have hc : s.count = BitVec.allOnes 32 := BitVec.eq_of_toNat_eq hc
    simp only [transact, hs, stepCountUp, if_pos hc]
  · have hc' : s.count ≠ BitVec.allOnes 32 := by
      intro h
      simp [h] at hc
    simp only [transact, hs, stepCountUp, if_neg hc']
    exact ⟨_, rfl, rfl, by simp [BitVec.toNat_add]; omega⟩

/-! ### The buffers through the port -/

theorem inTxbuf_iff {off : Nat} : inTxbuf off = true ↔ 0x100 ≤ off ∧ off < 0x200 := by
  simp only [inTxbuf, Bool.and_eq_true, decide_eq_true_eq]
  rfl

theorem inRxbuf_iff {off : Nat} : inRxbuf off = true ↔ 0x200 ≤ off ∧ off < 0x300 := by
  simp only [inRxbuf, Bool.and_eq_true, decide_eq_true_eq]
  rfl

theorem not_inTxbuf_of_inRxbuf {off : Nat} (h : inRxbuf off = true) : inTxbuf off = false := by
  rw [Bool.eq_false_iff, Ne, inTxbuf_iff]
  rw [inRxbuf_iff] at h
  omega

section
variable {off : Nat} {s t : State}

/-- A read of a byte of `TXBUF`, that has a value or has none. -/
theorem readByteAt_txbuf_some {b : Byte} (h : inTxbuf off = true) (hr : s.txbuf.read? (off - 0x100) = some b) :
    readByteAt off s = .ok b := by
  rw [readByteAt, if_pos h, txbufOffset, hr]

theorem readByteAt_txbuf_none (h : inTxbuf off = true) (hr : s.txbuf.read? (off - 0x100) = none) :
    readByteAt off s = .error .unwrittenByte := by
  rw [readByteAt, if_pos h, txbufOffset, hr]

/-- A read of a byte of `RXBUF`, that has a value or has none. -/
theorem readByteAt_rxbuf_some {b : Byte} (h : inRxbuf off = true) (hr : s.rxbuf.read? (off - 0x200) = some b) :
    readByteAt off s = .ok b := by
  rw [readByteAt, if_neg (by simp [not_inTxbuf_of_inRxbuf h]), if_pos h, rxbufOffset, hr]

theorem readByteAt_rxbuf_none (h : inRxbuf off = true) (hr : s.rxbuf.read? (off - 0x200) = none) :
    readByteAt off s = .error .unwrittenByte := by
  rw [readByteAt, if_neg (by simp [not_inTxbuf_of_inRxbuf h]), if_pos h, rxbufOffset, hr]

/-- A byte read depends on the byte of the buffer its offset names only. -/
theorem readByteAt_congr (htx : inTxbuf off = true → t.txbuf.read? (off - 0x100) = s.txbuf.read? (off - 0x100))
    (hrx : t.rxbuf = s.rxbuf) : readByteAt off t = readByteAt off s := by
  by_cases h : inTxbuf off = true
  · rw [readByteAt, readByteAt, if_pos h, if_pos h, txbufOffset, htx h]
  · simp only [readByteAt, if_neg h, hrx]

end

/-- Settles O13: the laws of a buffer write, read through the port. -/
theorem txBufferWriteThenRead : Obligations.TxBufferWriteThenRead := by
  intro s k b rest hb hwf hh hk
  have hin : inTxbuf (0x100 + k) = true := inTxbuf_iff.2 (by omega)
  refine ⟨{ s with host := rest, txbuf := s.txbuf.write k b }, ?_, ?_, ?_, ?_, rfl, Buffer.write_wf k b hwf⟩
  · rw [step_idle hb hh, hostIdle, writeByteAt, if_pos hin]
    simp [hostWrite, txbufOffset]
  · exact readByteAt_txbuf_some hin (by simp)
  · intro a ha
    refine readByteAt_congr (fun h => ?_) rfl
    exact Buffer.read_write_other hwf (by have := inTxbuf_iff.1 h; omega) b
  · exact fun j hj => Buffer.read_write_other hwf hj b

/-- Settles O14: a byte without a value, in either buffer's window. -/
theorem unwrittenBufferByteFaults : Obligations.UnwrittenBufferByteFaults := by
  rintro s off rest hb hh (⟨h1, h2, hr⟩ | ⟨h1, h2, hr⟩)
  · exact step_readByte_error hb hh (readByteAt_txbuf_none (inTxbuf_iff.2 ⟨h1, h2⟩) hr)
  · exact step_readByte_error hb hh (readByteAt_rxbuf_none (inRxbuf_iff.2 ⟨h1, h2⟩) hr)

/-! ### The word registers through the port -/

/-- What a read of each readable word register gives. -/
theorem readWord_of_mem_registerValues {s : State} {off : Nat} {v : Word} (h : (off, v) ∈ registerValues s) :
    readWord off s = .ok v := by
  simp only [registerValues, List.mem_cons, Prod.mk.injEq, List.not_mem_nil, or_false] at h
  rcases h with ⟨rfl, rfl⟩ | ⟨rfl, rfl⟩ | ⟨rfl, rfl⟩ | ⟨rfl, rfl⟩ | ⟨rfl, rfl⟩ | ⟨rfl, rfl⟩ | ⟨rfl, rfl⟩ | ⟨rfl, rfl⟩ |
    ⟨rfl, rfl⟩ | ⟨rfl, rfl⟩
  case inr.inr.inr.inr.inl => exact congrArg Except.ok (idLo_eq s.id)
  case inr.inr.inr.inr.inr.inl => exact congrArg Except.ok (idHi_eq s.id)
  all_goals rfl

/-- Settles O57: the word registers by their values, the bytes by the buffer they lie in. -/
theorem hostReadWhileIdle : Obligations.HostReadWhileIdle := by
  intro s rest hb
  refine ⟨fun off v hh hv => ?_, fun k b hh hk hr => ?_, fun k b hh hk hr => ?_⟩
  · have hv : readWord off { s with host := rest } = .ok v := readWord_of_mem_registerValues (s := s) hv
    rw [step_idle hb hh, hostIdle, hv]
    rfl
  · have hin : inTxbuf (0x100 + k) = true := inTxbuf_iff.2 (by omega)
    exact step_readByte_ok hb hh (readByteAt_txbuf_some hin (by rwa [Nat.add_sub_cancel_left]))
  · have hin : inRxbuf (0x200 + k) = true := inRxbuf_iff.2 (by omega)
    exact step_readByte_ok hb hh (readByteAt_rxbuf_some hin (by rwa [Nat.add_sub_cancel_left]))

/-- A write of `ID_LO` replaces the first four bytes of the identifier. -/
theorem idOf_writeLo (i : Identifier) (v : Word) :
    idOf ((accOf i).extractLsb' 32 32 ++ v) =
      { i with
        family := v.extractLsb' 0 8, serial1 := v.extractLsb' 8 8, serial2 := v.extractLsb' 16 8,
        serial3 := v.extractLsb' 24 8 } := by
  rw [idHi_eq, idOf_append]
  simp (disch := decide) only [BitVec.extractLsb'_append_eq_of_le, BitVec.extractLsb'_append_eq_of_add_le,
    Nat.reduceSub, BitVec.extractLsb'_eq_self]

/-- A write of `ID_HI` replaces the last four. -/
theorem idOf_writeHi (i : Identifier) (v : Word) :
    idOf (v ++ (accOf i).extractLsb' 0 32) =
      { i with
        serial4 := v.extractLsb' 0 8, serial5 := v.extractLsb' 8 8, serial6 := v.extractLsb' 16 8,
        checksum := v.extractLsb' 24 8 } := by
  rw [idLo_eq, idOf_append]
  simp (disch := decide) only [BitVec.extractLsb'_append_eq_of_le, BitVec.extractLsb'_append_eq_of_add_le,
    Nat.reduceSub, BitVec.extractLsb'_eq_self]

/-- The low bits of a word, as a number. -/
theorem setWidth_extractLsb'_zero (v : Word) (n : Nat) :
    (v.extractLsb' 0 n).setWidth 32 = BitVec.ofNat 32 (v.toNat % 2 ^ n) := by
  apply BitVec.eq_of_toNat_eq
  simp

/-- What a read of a register gives after a write of it. -/
theorem readWord_of_writeWord {off bits : Nat} {v : Word} {s t : State} (h : (off, bits) ∈ readWriteRegisters)
    (hw : writeWord off v s = .ok t) : readWord off t = .ok (BitVec.ofNat 32 (v.toNat % 2 ^ bits)) := by
  simp only [readWriteRegisters, List.mem_cons, Prod.mk.injEq, List.not_mem_nil, or_false] at h
  have hword : v = BitVec.ofNat 32 (v.toNat % 2 ^ 32) := by rw [← setWidth_extractLsb'_zero]; simp
  have hlength : lengthField (v.extractLsb' 0 9).toNat = BitVec.ofNat 32 (v.toNat % 2 ^ 9) := by simp [lengthField]
  rcases h with ⟨rfl, rfl⟩ | ⟨rfl, rfl⟩ | ⟨rfl, rfl⟩ | ⟨rfl, rfl⟩ | ⟨rfl, rfl⟩ | ⟨rfl, rfl⟩ | ⟨rfl, rfl⟩ |
      ⟨rfl, rfl⟩ <;> cases hw <;> refine congrArg Except.ok ?_
  · exact setWidth_extractLsb'_zero v 7
  · exact (extractLsb'_append_lo _ v).trans hword
  · exact (extractLsb'_append_hi v _).trans hword
  · exact (idLo_eq _).trans ((by rw [idOf_append]; exact append_bytes v : _ = v).trans hword)
  · exact (idHi_eq _).trans ((by rw [idOf_append]; exact append_bytes v : _ = v).trans hword)
  · exact hword
  · exact hlength
  · exact hlength

/-- Settles O12: what each write does, the two identifier words cut into bytes; and `readWord_of_writeWord`. -/
theorem registerWriteThenRead : Obligations.RegisterWriteThenRead := by
  intro s off v rest hb hh
  have hstep (hoff : off ≠ cmdOffset) := step_writeWord hb hh hoff
  refine ⟨?_, ?_, ?_, ?idLo, ?idHi, ?_, ?txlen, ?rxlen, ?_, fun bits t hmem ht => ?readBack⟩
  case idLo =>
    rintro rfl
    rw [hstep (by decide), ← idOf_writeLo]
    rfl
  case idHi =>
    rintro rfl
    rw [hstep (by decide), ← idOf_writeHi]
    rfl
  case txlen | rxlen =>
    rintro rfl
    rw [hstep (by decide)]
    simp [writeWord, hostWrite]
  case readBack =>
    have hoff : off ≠ cmdOffset := by
      rintro rfl
      simp [readWriteRegisters, cmdOffset] at hmem
    exact readWord_of_writeWord hmem (hostWrite_eq_next ((hstep hoff).symm.trans ht))
  all_goals
    rintro rfl
    exact hstep (by decide)

open Sys2Proof.Reference

/-! ### Frames answered with success -/

section
variable {s s' : State} {c : Call} {r : Reply} (h : s.ask c = some (r, s'))
include h

theorem State.ask_id : s'.id = s.id := by obtain ⟨b, -, rfl⟩ := State.ask_some h; rfl
theorem State.ask_txbuf : s'.txbuf = s.txbuf := by obtain ⟨b, -, rfl⟩ := State.ask_some h; rfl
theorem State.ask_txlen : s'.txlen = s.txlen := by obtain ⟨b, -, rfl⟩ := State.ask_some h; rfl

end

/-- The calls of a frame leave the command block as it was. -/
theorem answers_keepsTx {s t : State} {l : List (Call × Reply)} (h : Answers s l t) :
    t.txbuf = s.txbuf ∧ t.txlen = s.txlen := by
  induction l generalizing s with
  | nil => rw [answers_nil.1 h]; exact ⟨rfl, rfl⟩
  | cons q l ih =>
    obtain ⟨s', ha, h⟩ := answers_cons.1 h
    rw [(ih h).1, (ih h).2]
    exact ⟨State.ask_txbuf ha, State.ask_txlen ha⟩

/-- The reset step and the command byte, that open the frame of every addressing operation (R102). -/
theorem run_addressed {s t : State} {v : Byte} {k : List UOp}
    (h : Answers s [(.reset, .presence true), (.writeByte v, .ok)] t) :
    run (s.goto (.resetAddressed :: .writeByte v :: k)) = run (t.goto k) := by
  obtain ⟨s₁, hreset, s₂, hcmd, rfl⟩ := h
  rw [run_resetAddressed hreset nofun]
  exact run_writeByte hcmd nofun

/-- SKIP's frame. -/
theorem run_skipFrame {s t : State} {k : List UOp} (hl : s.lockFree = true)
    (h : Answers s.locked [(.reset, .presence true), (.writeByte s.params.cmdSkipRom, .ok)] t) :
    run (s.goto (skipFrame s.params ++ k)) = run (t.unlocked.goto k) := by
  change run (s.goto (.lock :: .resetAddressed :: .writeByte s.params.cmdSkipRom :: .unlock :: k)) = _
  rw [run_lock hl, run_addressed h, run_unlock]

/-- MATCH_ID's frame. -/
theorem run_matchFrame {s t : State} {k : List UOp} (hl : s.lockFree = true)
    (h : Answers s.locked
      [(.reset, .presence true), (.writeByte s.params.cmdMatchRom, .ok), (.writeBlock s.id.toList, .ok)] t) :
    run (s.goto (matchFrame s.params ++ k)) = run (t.unlocked.goto k) := by
  obtain ⟨s₁, hreset, s₂, hcmd, s₃, hid, rfl⟩ := h
  have hid₁ : s₁.id = s.id := (State.ask_id hreset).trans rfl
  have hid₂ : s₂.id = s.id := (State.ask_id hcmd).trans hid₁
  rw [← hid₂] at hid
  change run (s.goto (.lock :: .resetAddressed :: .writeByte s.params.cmdMatchRom :: .writeId :: .unlock :: k)) = _
  rw [run_lock hl, run_addressed ⟨s₁, hreset, s₂, hcmd, rfl⟩, run_writeId hid nofun, run_unlock]

/-- The select step (R164). -/
theorem run_selectFrame {s t : State} {k : List UOp} (hl : s.lockFree = true)
    (h : Answers s.locked (selectCalls s) t) : run (s.goto (.select :: k)) = run (t.unlocked.goto k) := by
  rw [run_select]
  unfold selectCalls at h
  unfold selectFrame selectsByMatch
  split at h
  · next hc => rw [if_pos (by simpa using hc)]; exact run_matchFrame hl h
  · next hc => rw [if_neg (by simpa using hc)]; exact run_skipFrame hl h

theorem opened_lockFree (s : State) : (opened s).lockFree = true := by simp [opened, State.lockFree]

/-- Settles O31: the select step leaves `TXBUF` as it was, and the block write then finds the byte unwritten. -/
theorem writeReadFaultsOnUnwrittenCommandByte : Obligations.WriteReadFaultsOnUnwrittenCommandByte := by
  rintro s u resp hl htx hrx ⟨k, hk, hr⟩ h
  have hrx' : (resp && exceeds s.params.rxMax s.rxlen) = false := by
    cases resp
    · rfl
    · exact exceeds_eq_false_iff.2 (hrx rfl)
  obtain ⟨htxbuf, htxlen⟩ := answers_keepsTx h
  have hblock : u.unlocked.txbuf.block? 0 u.unlocked.txlen = none :=
    Buffer.block?_eq_none_iff.2 ⟨k, by simpa [htxlen, opened] using hk, by simpa [htxbuf, opened] using hr⟩
  simp only [exec, execWriteRead, exceeds_eq_false_iff.2 htx, hrx', Bool.false_eq_true, if_false]
  exact (start_opened hl).trans ((run_selectFrame (opened_lockFree s) h).trans (run_writeTx_unwritten hblock))

/-! ### Addressing operations answered with success -/

/-- MATCH_ID (R161). -/
theorem exec_matchId_answered {s t : State} (hl : s.lockFree = true)
    (h : Answers (opened s)
      [(.reset, .presence true), (.writeByte s.params.cmdMatchRom, .ok), (.writeBlock s.id.toList, .ok)] t) :
    exec .matchId s = .next (closed t .ok) :=
  (run_matchFrame (s := s.issue []) hl h).trans (run_finish _ _ _)

/-- SKIP (R162). -/
theorem exec_skip_answered {s t : State} (hl : s.lockFree = true)
    (h : Answers (opened s) [(.reset, .presence true), (.writeByte s.params.cmdSkipRom, .ok)] t) :
    exec .skip s = .next (closed t .ok) :=
  (run_skipFrame (s := s.issue []) hl h).trans (run_finish _ _ _)

/-- RESUME (R163). -/
theorem exec_resume_answered {s t : State} (hl : s.lockFree = true)
    (h : Answers (opened s) [(.reset, .presence true), (.writeByte s.params.cmdResume, .ok)] t) :
    exec .resume s = .next (closed t .ok) :=
  (start_opened hl).trans ((run_addressed h).trans (run_unlock_finish _ _ _))

/-- READ_ID, with either outcome of the checksum (R160). -/
theorem exec_readId_answered {s t : State} {bs : List Byte} (hl : s.lockFree = true)
    (h : Answers (opened s)
      [(.reset, .presence true), (.writeByte s.params.cmdReadRom, .ok), (.readBlock 8, .bytes bs)] t) :
    exec .readId s = .next
      (if checksum8 s.params bs = 0 then closed { t.checked bs with id := .ofList bs } .ok
        else closed (t.checked bs) .checksumMismatch) := by
  obtain ⟨s₁, hreset, s₂, hcmd, s₃, hread, rfl⟩ := h
  have hp₁ : s₁.params = s.params := (State.ask_params hreset).trans rfl
  have hp₂ : s₂.params = s.params := (State.ask_params hcmd).trans hp₁
  refine (start_opened hl).trans ((run_addressed ⟨s₁, hreset, s₂, hcmd, rfl⟩).trans ?_)
  rw [run_readId hread nofun, hp₂, checksumValid]
  simp only [beq_iff_eq, Reply.data]
  split
  · exact run_unlock_finish _ _ _
  · exact run_unlock_finish _ _ _

/-! ### Bytes and their slots (R66) -/

/-- The byte of eight bits has those bits. -/
theorem ofSlots_slots (v : Byte) : Byte.ofSlots v.slots = v := by
  revert v
  decide +kernel

/-- Bytes put on the line bit 0 first, and read again. -/
theorem bytesOfBits_flatMap_slots (bs : List Byte) : bytesOfBits bs.length (bs.flatMap Byte.slots) = bs := by
  induction bs with
  | nil => rfl
  | cons b bs ih =>
    have hlen : b.slots.length = 8 := by simp [Byte.slots]
    rw [List.length_cons, List.flatMap_cons, bytesOfBits, List.take_left' hlen, List.drop_left' hlen, ih,
      ofSlots_slots]

theorem idOf_accOf (i : Identifier) : idOf (accOf i) = i := by
  rw [accOf_eq_append, idOf_append]
  simp (disch := decide) only [BitVec.extractLsb'_append_eq_of_le, BitVec.extractLsb'_append_eq_of_add_le,
    Nat.reduceSub, BitVec.extractLsb'_eq_self]

/-- The bits of an accumulator at `n` positions from `p` up, in the order they travel (R64). -/
def positionBits (a : Acc) (p n : Nat) : List Bool := (List.range' p n).map (accBit a)

/-- The slots of a byte of an accumulator. -/
theorem slots_extractLsb' (a : Acc) (j : Nat) :
    Byte.slots (a.extractLsb' (8 * j) 8) = positionBits a (8 * j + 1) 8 := by
  simp only [Byte.slots, positionBits, List.range'_eq_map_range, List.map_map]
  exact List.map_congr_left fun k hk => by simp [List.mem_range.1 hk]; congr 1; omega

/-- The eight bytes of an identifier are its 64 bits in position order. -/
theorem slots_idOf (a : Acc) : (idOf a).toList.flatMap Byte.slots = positionBits a 1 64 := by
  have h : (idOf a).toList = (List.range 8).map fun j => a.extractLsb' (8 * j) 8 := rfl
  rw [h, List.flatMap_map]
  simp only [slots_extractLsb']
  rfl

/-! ### A device in the modes of the addressing operations (R77 to R79) -/

section
variable {p : Params} {d : Device}

/-- The write slots of a command byte, to a device that has seen the bits `seen` of it (R77). -/
theorem through_command {seen bits : List Bool} (b rc : Bool) (h : seen.length + bits.length = 7) :
    (d.through p ((b :: bits).map .write) ⟨.awaitCmd seen, rc⟩).2 =
      ⟨d.commanded p rc (Byte.ofSlots (seen ++ b :: bits)), rc⟩ := by
  induction bits generalizing seen b with
  | nil =>
    have hlen : ¬(seen ++ [b]).length < 8 := by simp at h ⊢; omega
    simp only [List.map_cons, List.map_nil, Device.through, Device.writeSlot, if_neg hlen]
  | cons b' bits ih =>
    have hlen : (seen ++ [b]).length < 8 := by simp at h ⊢; omega
    rw [List.map_cons, Device.through, Device.writeSlot]
    simp only [if_pos hlen]
    rw [ih b' (by simp at h ⊢; omega), List.append_assoc]
    rfl

/-- A device that awaits a command, after the command byte. -/
theorem after_command {rc : Bool} (h : d.st = ⟨.awaitCmd [], rc⟩) (v : Byte) :
    d.after p (Call.writeByte v).slots = { d with st := ⟨d.commanded p rc v, rc⟩ } := by
  have hbits : (Call.writeByte v).slots = (v.getLsbD 0 :: (List.range' 1 7).map v.getLsbD).map .write := rfl
  rw [Device.after, h, hbits, through_command _ _ rfl]
  exact congrArg (fun v => ({ d with st := ⟨d.commanded p rc v, rc⟩ } : Device)) (ofSlots_slots v)

/-- The write slots of `n` positions from `p` up, to a device that matches (R79). -/
theorem through_match (a : Acc) {pos n : Nat} (hn : pos + n + 1 = 65) (ok rc : Bool) :
    (d.through p ((positionBits a pos (n + 1)).map .write) ⟨.matching pos ok, rc⟩).2 =
      if (ok && (List.range' pos (n + 1)).all fun q => accBit a q == accBit d.rom q) = true then
        ⟨.selected [] 0, true⟩ else ⟨.off, false⟩ := by
  induction n generalizing pos ok with
  | zero =>
    obtain rfl : pos = 64 := by omega
    simp [positionBits, Device.through, Device.writeSlot, lastPosition]
  | succ n ih =>
    have hlt : pos < lastPosition := by simp only [lastPosition]; omega
    rw [positionBits, List.range'_succ, List.map_cons, List.map_cons, Device.through, Device.writeSlot]
    simp only [if_pos hlt]
    refine (ih (pos := pos + 1) (by omega) _).trans ?_
    rw [List.all_cons, Bool.and_assoc]

/-- The read slots of `n` positions from `p` up, to a device that is read (R79). -/
theorem through_read {pos n : Nat} (hn : pos + n + 1 = 65) (rc : Bool) :
    d.through p (List.replicate (n + 1) .read) ⟨.readRom pos, rc⟩ =
      (positionBits d.rom pos (n + 1), ⟨.selected [] 0, rc⟩) := by
  induction n generalizing pos with
  | zero =>
    obtain rfl : pos = 64 := by omega
    simp [positionBits, Device.through, Device.readSlot, lastPosition]
  | succ n ih =>
    have hlt : pos < lastPosition := by simp only [lastPosition]; omega
    rw [List.replicate_succ, Device.through, Device.readSlot]
    simp only [if_pos hlt]
    rw [ih (pos := pos + 1) (by omega)]
    rfl

/-- A device that matches, after the eight bytes of an identifier: selected and marked iff it has it (R79, R80). -/
theorem after_match {rc : Bool} (h : d.st = ⟨.matching 1 true, rc⟩) (i : Identifier) :
    d.after p (Call.writeBlock i.toList).slots =
      { d with st := if d.rom = accOf i then ⟨.selected [] 0, true⟩ else ⟨.off, false⟩ } := by
  have hbits : (Call.writeBlock i.toList).slots = (positionBits (accOf i) 1 64).map .write := by
    rw [← slots_idOf, idOf_accOf, Call.slots]
  have hall : ((List.range' 1 64).all fun q => accBit (accOf i) q == accBit d.rom q) = true ↔ d.rom = accOf i := by
    simp only [List.all_eq_true, List.mem_range'_1, beq_iff_eq]
    constructor
    · exact fun hq => BitVec.eq_of_getLsbD_eq fun j hj => (hq (j + 1) (by omega)).symm
    · exact fun hd q _ => by rw [hd]
  rw [Device.after, h, hbits, through_match (accOf i) rfl, Bool.true_and]
  simp only [hall]

/-- A device that is read, after the eight bytes of its identifier: selected, its mark as it was (R79). -/
theorem after_read {rc : Bool} (h : d.st = ⟨.readRom 1, rc⟩) :
    d.after p (Call.readBlock 8).slots = { d with st := ⟨.selected [] 0, rc⟩ } := by
  rw [Device.after, h, Call.slots, through_read rfl]

end

/-! ### The line: the AND of what the devices drive (R73) -/

theorem accBit_and (a b : Acc) (q : Nat) : accBit (a &&& b) q = (accBit a q && accBit b q) := BitVec.getLsbD_and

theorem zipWith_positionBits (a b : Acc) (pos n : Nat) :
    List.zipWith (· && ·) (positionBits a pos n) (positionBits b pos n) = positionBits (a &&& b) pos n := by
  simp only [positionBits, List.zipWith_map_left, List.zipWith_map_right, List.zipWith_self]
  exact List.map_congr_left fun q _ => (accBit_and a b q).symm

/-- Devices that are all read put the AND of their identifiers on the line. -/
theorem wiredAnd_read {p : Params} {ds : List Device} (h : ∀ d ∈ ds, ∃ rc, d.st = ⟨.readRom 1, rc⟩) :
    wiredAnd p (Call.readBlock 8).slots ds =
      positionBits (ds.foldl (fun a d => a &&& d.rom) (BitVec.allOnes 64)) 1 64 := by
  have hstart : List.replicate (readSlots (Call.readBlock 8).slots) true = positionBits (BitVec.allOnes 64) 1 64 := by
    decide
  rw [wiredAnd, hstart]
  generalize BitVec.allOnes 64 = a
  induction ds generalizing a with
  | nil => rfl
  | cons d ds ih =>
    obtain ⟨⟨rc, hd⟩, hds⟩ := List.forall_mem_cons.1 h
    rw [List.foldl_cons, hd, Call.slots, through_read rfl, zipWith_positionBits]
    exact ih hds _

/-! ### Calls answered by the devices on the wire -/

theorem ask_wire {s : State} {more : List Answer} (c : Call) (h : s.bus.answers = .wire :: more) :
    ∃ s', s.ask c = some (wireReply s.params c s.bus.devices, s') ∧ s'.bus.answers = more ∧
      s'.bus.devices = devicesAfter s.params c s.bus.devices := by
  have hr : wireReply s.params c s.bus.devices ≠ .fail := by cases c <;> nofun
  refine ⟨_, by rw [State.ask, Transport.call, h]; rfl, rfl, ?_⟩
  exact if_neg hr

/-- A call other than the bus reset: every device goes through its slots. -/
theorem ask_slots_wire {s : State} {more : List Answer} (c : Call) (hc : c ≠ .reset)
    (h : s.bus.answers = .wire :: more) :
    ∃ s', s.ask c = some (wireReply s.params c s.bus.devices, s') ∧ s'.bus.answers = more ∧
      s'.bus.devices = s.bus.devices.map (Device.after s.params c.slots) := by
  obtain ⟨s', ha, hmore, hd⟩ := ask_wire c h
  refine ⟨s', ha, hmore, hd.trans ?_⟩
  cases c <;> first | rfl | exact absurd rfl hc

/-- The bus reset and a command byte: every device, whatever mode it was in, takes the mode the command gives it. -/
theorem answers_addressed_wire {s : State} {more : List Answer} {v : Byte} {mode : Device → Listening}
    (hd : s.bus.devices ≠ []) (h : s.bus.answers = .wire :: .wire :: more)
    (hmode : ∀ d : Device, d.commanded s.params d.st.rc v = mode d) :
    ∃ t, Answers s [(.reset, .presence true), (.writeByte v, .ok)] t ∧ t.bus.answers = more ∧
      t.bus.devices = s.bus.devices.map fun d => { d with st := ⟨mode d, d.st.rc⟩ } := by
  obtain ⟨s₁, h₁, ha₁, hd₁⟩ := ask_wire .reset h
  obtain ⟨s₂, h₂, ha₂, hd₂⟩ := ask_slots_wire (.writeByte v) nofun ha₁
  have hpresence : wireReply s.params .reset s.bus.devices = .presence true := by simp [wireReply, hd]
  rw [hpresence] at h₁
  refine ⟨s₂, ⟨s₁, h₁, s₂, h₂, rfl⟩, ha₂, ?_⟩
  rw [hd₂, State.ask_params h₁, hd₁, devicesAfter, List.map_map]
  refine List.map_congr_left fun d _ => (after_command (d := d.busReset) rfl v).trans ?_
  rw [← hmode d]
  rfl

/-! What each addressing command byte does, where the six differ (R77, R103). -/

section
variable {p : Params} (h : distinctCommands p) (d : Device) (rc : Bool)
include h

theorem commanded_readRom : d.commanded p rc p.cmdReadRom = .readRom 1 := by
  simp only [distinctCommands, List.nodup_cons, List.mem_cons, List.not_mem_nil, or_false, not_or] at h
  simp [Device.commanded, Ne.symm, h]

theorem commanded_matchRom : d.commanded p rc p.cmdMatchRom = .matching 1 true := by
  simp only [distinctCommands, List.nodup_cons, List.mem_cons, List.not_mem_nil, or_false, not_or] at h
  simp [Device.commanded, Ne.symm, h]

theorem commanded_skipRom : d.commanded p rc p.cmdSkipRom = .selected [] 0 := by
  simp only [distinctCommands, List.nodup_cons, List.mem_cons, List.not_mem_nil, or_false, not_or] at h
  simp [Device.commanded, Ne.symm, h]

theorem commanded_resume : d.commanded p rc p.cmdResume = if rc then .selected [] 0 else .off := by
  simp only [distinctCommands, List.nodup_cons, List.mem_cons, List.not_mem_nil, or_false, not_or] at h
  simp [Device.commanded, Ne.symm, h]

end

/-- The reply of the devices to READ_ID's block read: the bytes of the AND of their identifiers. -/
theorem wireReply_read {p : Params} {ds : List Device} (h : ∀ d ∈ ds, ∃ rc, d.st = ⟨.readRom 1, rc⟩) :
    wireReply p (.readBlock 8) ds =
      .bytes (idOf (ds.foldl (fun a d => a &&& d.rom) (BitVec.allOnes 64))).toList := by
  rw [wireReply, wiredAnd_read h, ← slots_idOf]
  exact congrArg Reply.bytes (bytesOfBits_flatMap_slots (idOf _).toList)

section
variable {s : State} {more : List Answer} (hl : s.lockFree = true) (hdist : distinctCommands s.params)
  (hne : s.bus.devices ≠ [])
include hl hdist hne

theorem matchId_on_wire (ha : s.bus.answers = .wire :: .wire :: .wire :: more) :
    ∃ t, exec .matchId s = .next t ∧ t.status.err = .ok ∧ t.bus.devices = s.bus.devices.map fun d =>
      { d with st := if d.rom = accOf s.id then ⟨.selected [] 0, true⟩ else ⟨.off, false⟩ } := by
  obtain ⟨t, ⟨s₁, h₁, s₂, h₂, rfl⟩, hat, hdt⟩ :=
    answers_addressed_wire (s := opened s) hne ha fun d => commanded_matchRom hdist d d.st.rc
  obtain ⟨u, h₃, -, hdu⟩ := ask_slots_wire (.writeBlock s.id.toList) nofun hat
  refine ⟨_, exec_matchId_answered hl ⟨s₁, h₁, t, h₂, u, h₃, rfl⟩, rfl, hdu.trans ?_⟩
  rw [hdt, List.map_map]
  exact List.map_congr_left fun d _ => after_match rfl s.id

theorem readId_on_wire (ha : s.bus.answers = .wire :: .wire :: .wire :: more) :
    let a := s.bus.devices.foldl (fun a d => a &&& d.rom) (BitVec.allOnes 64)
    let valid := checksum8 s.params (idOf a).toList = 0
    ∃ t, exec .readId s = .next t ∧ t.status.err = (if valid then .ok else .checksumMismatch) ∧
      t.id = (if valid then idOf a else s.id) ∧ t.bus.devices = s.bus.devices.map fun d =>
        { d with st := ⟨.selected [] 0, d.st.rc⟩ } := by
  intro a valid
  obtain ⟨t, ⟨s₁, h₁, s₂, h₂, rfl⟩, hat, hdt⟩ :=
    answers_addressed_wire (s := opened s) hne ha fun d => commanded_readRom hdist d d.st.rc
  obtain ⟨u, h₃, -, hdu⟩ := ask_slots_wire (.readBlock 8) nofun hat
  have hreply : wireReply t.params (.readBlock 8) t.bus.devices = .bytes (idOf a).toList := by
    rw [hdt, wireReply_read (List.forall_mem_map.2 fun d _ => ⟨d.st.rc, rfl⟩), List.foldl_map]
    rfl
  rw [hreply] at h₃
  have hid : u.id = s.id := by rw [State.ask_id h₃, State.ask_id h₂, State.ask_id h₁]; rfl
  have hdev : u.bus.devices = s.bus.devices.map fun d => { d with st := ⟨.selected [] 0, d.st.rc⟩ } := by
    rw [hdu, hdt, List.map_map]
    exact List.map_congr_left fun d _ => after_read rfl
  have h := exec_readId_answered hl ⟨s₁, h₁, t, h₂, u, h₃, rfl⟩
  by_cases hv : valid
  · rw [if_pos hv] at h ⊢
    exact ⟨_, h, rfl, by rw [if_pos hv]; rfl, hdev⟩
  · rw [if_neg hv] at h ⊢
    exact ⟨_, h, rfl, by rw [if_neg hv]; exact hid, hdev⟩

theorem skip_on_wire (ha : s.bus.answers = .wire :: .wire :: more) :
    ∃ t, exec .skip s = .next t ∧ t.status.err = .ok ∧ t.bus.devices = s.bus.devices.map fun d =>
      { d with st := ⟨.selected [] 0, d.st.rc⟩ } := by
  obtain ⟨t, h, -, hdt⟩ :=
    answers_addressed_wire (s := opened s) hne ha fun d => commanded_skipRom hdist d d.st.rc
  exact ⟨_, exec_skip_answered hl h, rfl, hdt⟩

theorem resume_on_wire (ha : s.bus.answers = .wire :: .wire :: more) :
    ∃ t, exec .resume s = .next t ∧ t.status.err = .ok ∧ t.bus.devices = s.bus.devices.map fun d =>
      { d with st := ⟨if d.st.rc then .selected [] 0 else .off, d.st.rc⟩ } := by
  obtain ⟨t, h, -, hdt⟩ :=
    answers_addressed_wire (s := opened s) hne ha fun d => commanded_resume hdist d d.st.rc
  exact ⟨_, exec_resume_answered hl h, rfl, hdt⟩

end

/-- Settles O33: the command byte puts every device into the mode of its operation, and the bytes that follow take it
through that mode. -/
theorem addressingSelectsDevices : Obligations.AddressingSelectsDevices := fun _ _ hl hdist hne =>
  ⟨fun ha => ⟨matchId_on_wire hl hdist hne ha, readId_on_wire hl hdist hne ha⟩,
    fun ha => ⟨skip_on_wire hl hdist hne ha, resume_on_wire hl hdist hne ha⟩⟩

end Sys2Proof.Machine
end

section
/-! PROOFS. The statements of spec/20_memory.md: identifiers on the line (R64 to R66), the checksum port (R82), what
the sequencer waits for (R62, R69, R70, R83), and searches of the reference environment (R73 to R80). -/

namespace Sys2Proof.Machine

/-! ### Identifiers on the line (R64 to R66) -/

/-- The eight bytes of an identifier are its accumulator, cut from bit 0 up. -/
theorem toList_eq_map_extract (i : Identifier) :
    i.toList = (List.range 8).map fun j => (accOf i).extractLsb' (8 * j) 8 := by
  conv_lhs => rw [← idOf_accOf i]
  rfl

/-- Settles O6: byte `j` is the accumulator from bit `8j` up, and position `n + 1` is its bit `n`. -/
theorem identifierBitsAreBusPositions : Obligations.IdentifierBitsAreBusPositions := by
  intro i j k b hk hb
  rw [toList_eq_map_extract, List.getElem?_map] at hb
  obtain ⟨n, hn, rfl⟩ := Option.map_eq_some_iff.1 hb
  obtain ⟨-, rfl⟩ := List.getElem?_eq_some_iff.1 hn
  simp [accBit, hk]

/-- The slots of the block write of an identifier are its 64 bits in position order. -/
theorem writeBlock_slots (i : Identifier) :
    (Call.writeBlock i.toList).slots = (positionBits (accOf i) 1 64).map .write := by
  rw [← slots_idOf, idOf_accOf]
  rfl

/-- Settles O7: the positions from 1 up are the indexes from 0 up, plus one. -/
theorem matchBytesPresentPositionsInOrder : Obligations.MatchBytesPresentPositionsInOrder := by
  intro i
  rw [writeBlock_slots, positionBits, List.range'_eq_map_range, List.map_map, List.map_map]
  exact List.map_congr_left fun n _ => by simp [Nat.add_comm]

/-! ### The reference checksum (R82) -/

/-- One more byte at the end is one more round. -/
theorem crc8_append (bs : List Byte) (b : Byte) : crc8 (bs ++ [b]) = crcByte (crc8 bs) b := by simp [crc8]

/-- The byte equal to the checksum so far brings it to zero: the exclusive or is 0, and 0 shifts to 0. -/
theorem crcByte_self (c : Byte) : crcByte c c = 0 := by
  rw [crcByte, BitVec.xor_self]
  rfl

/-- Settles O59: the checksum appended is the last round of the function. -/
theorem referenceChecksum : Obligations.ReferenceChecksum := by
  refine ⟨fun p bs hp => ?_, by decide +kernel⟩
  simp only [checksum8, hp]
  rw [crc8_append, crcByte_self]

/-! ### What the sequencer waits for (R62, R70, R83) -/

/-- A guarded call with an answer left does not wait, if what goes on with its reply does not. -/
theorem State.askOr_ne_waiting {s : State} {c : Call} {k : List UOp} {go : Reply → State → Progress}
    (ha : s.bus.answers ≠ []) (hgo : ∀ r s', go r s' ≠ .waiting) : s.askOr c k go ≠ .waiting := by
  rcases State.askOr_cases s c k go with ⟨hn, -⟩ | ⟨s', -, h⟩ | ⟨r, s', -, -, h⟩
  · exact absurd (State.ask_eq_none.1 hn) ha
  · rw [h]; nofun
  · rw [h]; exact hgo r s'

/-- Settles O22: an entry that makes a call has its answer, the lock can be had, and no other entry waits but the two
that await the host. -/
theorem nextStepNeedsNoParticularAnswer : Obligations.NextStepNeedsNoParticularAnswer := by
  intro s hseq ha hl hfound hreport
  rcases hs : s.seq with _ | ⟨u, k⟩
  · exact absurd hs hseq
  rw [hs] at hfound hreport
  cases u <;> simp only [transact, hs]
  case lock => simp only [stepLock, hl, if_true]; nofun
  case awaitFound => cases hfound
  case awaitReport => cases hreport
  case checksum | quirkStep | quirkCatch | afterPass | countUp | append | loopTest =>
    simp only [stepChecksum, stepQuirkStep, stepQuirkCatch, stepAfterPass, stepCountUp, stepAppend, stepLoopTest]
    split <;> nofun
  case report e todo => cases todo <;> nofun
  case writeTx =>
    simp only [stepWriteTx]
    split
    · nofun
    · exact State.askOr_ne_waiting ha fun _ _ => nofun
  case resetAddressed | passReset | passComplement =>
    refine State.askOr_ne_waiting ha fun r s' => ?_
    repeat' split
    all_goals nofun
  case resetIgnored | writeByte | writeId | readId | readRx | resumePower | suspendPower | passCommand | passTrue
      | passWrite => exact State.askOr_ne_waiting ha fun _ _ => nofun
  all_goals nofun

/-- What an operation does before its first `lock` leaves the ports and the host alone: RESET_SELECT chooses its
frame, RELEASE and SCAN update the session, every other program opens with the bracket. -/
theorem run_program_to_lock (s : State) (i : Instr) :
    ∃ (a : State) (k : List UOp), run (s.issue (programOf s i)) = run (a.goto (.lock :: k)) ∧ a.bus = s.bus ∧
      a.lockDepth = s.lockDepth ∧ a.log = s.log ∧ a.host = s.host ∧ a.status.busy = true := by
  cases i with
  | resetSelect =>
    have hframe : ∃ k, selectFrame s.params s.pcount ++ [.finish .ok] = .lock :: k := by
      unfold selectFrame
      split <;> exact ⟨_, rfl⟩
    obtain ⟨k, hk⟩ := hframe
    refine ⟨s.issue [], k, ?_, rfl, rfl, rfl, rfl, rfl⟩
    rw [← hk]
    exact run_select (s.issue []) [.finish .ok]
  | release => exact ⟨_, _, run_beginRelease (s.issue []) [], rfl, rfl, rfl, rfl, rfl⟩
  | scan alarm fam => exact ⟨_, _, run_beginScan (s.issue []) [] _, rfl, rfl, rfl, rfl, rfl⟩
  | _ => exact ⟨s.issue [], _, rfl, rfl, rfl, rfl, rfl, rfl⟩

/-- Settles O23: an operation that is not rejected comes to a `lock` before its first call, and waits there. -/
theorem lockHeldElsewhereBlocks : Obligations.LockHeldElsewhereBlocks := by
  intro i s t hl h
  rcases exec_program_or_reject h with ⟨-, h⟩ | ⟨e, rfl⟩
  · obtain ⟨a, k, hrun, hbus, hdepth, hlog, hhost, hbusy⟩ := run_program_to_lock s i
    have hfree : a.lockFree = false := by rw [State.lockFree, hbus, hdepth]; exact hl
    rw [hrun, run_lock_blocked hfree] at h
    cases h
    exact ⟨hbus, hdepth, hlog, hhost, .inl hbusy⟩
  · exact ⟨rfl, rfl, rfl, rfl, .inr ⟨e, rfl⟩⟩

/-! ### More answers, the lock freed, more host accesses (R62, R69, R137) -/

/-- What the outside world can add while an operation waits, all three at once: answers, the lock, host accesses. -/
def State.further (l : List Answer) (unlock : Bool) (h : List HostInput) (s : State) : State :=
  { s with
    host := s.host ++ h
    bus :=
      { s.bus with answers := s.bus.answers ++ l, lockedElsewhere := s.bus.lockedElsewhere && !unlock } }

/-- Each of the three is all three at once with nothing for the other two. -/
theorem furthers_eq_further {f : State → State} (hf : Furthers f) :
    ∃ l unlock h, f = State.further l unlock h := by
  rcases hf with ⟨l, rfl⟩ | rfl | ⟨h, rfl⟩
  · exact ⟨l, false, [], funext fun s => by simp [State.further, State.supply]⟩
  · exact ⟨[], true, [], funext fun s => by simp [State.further, State.otherUnlocks]⟩
  · exact ⟨[], false, h, funext fun s => by simp [State.further, State.queueHost]⟩

/-- The state after a step, changed. -/
def Progress.map (f : State → State) : Progress → Progress
  | .moved s => .moved (f s)
  | .waiting => .waiting
  | .fault e => .fault e
  | .refused r => .refused r

section
variable (l : List Answer) (unlock : Bool) (h : List HostInput)

/-- A call that has returned uses the same answer when more are to come. -/
theorem State.ask_further {s s' : State} {c : Call} {r : Reply} (ha : s.ask c = some (r, s')) :
    (s.further l unlock h).ask c = some (r, s'.further l unlock h) := by
  obtain ⟨b, hb, rfl⟩ := State.ask_some ha
  obtain ⟨a, rest, hans, -⟩ := Transport.call_some hb
  simp only [Transport.call, hans, Option.some.injEq, Prod.mk.injEq] at hb
  obtain ⟨rfl, rfl⟩ := hb
  simp [State.ask, Transport.call, State.further, hans, State.record]

/-- A guarded call that does not wait, if what goes on with its reply does the same. -/
theorem State.askOr_further {s : State} {c : Call} {k : List UOp} {go : Reply → State → Progress}
    (hgo : ∀ r s', go r (s'.further l unlock h) = (go r s').map (State.further l unlock h))
    (hw : s.askOr c k go ≠ .waiting) :
    (s.further l unlock h).askOr c k go = (s.askOr c k go).map (State.further l unlock h) := by
  rcases State.askOr_cases s c k go with ⟨-, h'⟩ | ⟨s', ha, h'⟩ | ⟨r, s', hr, ha, h'⟩
  · exact absurd h' hw
  · rw [h', State.askOr_fail (State.ask_further l unlock h ha)]
    rfl
  · rw [h', State.askOr_reply (State.ask_further l unlock h ha) hr, hgo]

theorem State.lockFree_further {s : State} (hl : s.lockFree = true) : (s.further l unlock h).lockFree = true := by
  simp only [State.lockFree, State.further, Bool.or_eq_true] at hl ⊢
  exact hl.imp_right fun hl => by simp_all

theorem State.apply_further (s : State) (u : Update) :
    (s.further l unlock h).apply u = (s.apply u).further l unlock h := by cases u <;> rfl

/-- A step of the sequencer that can be made is the same step when more is to come. -/
theorem transact_further {s : State} (hw : transact s ≠ .waiting) :
    transact (s.further l unlock h) = (transact s).map (State.further l unlock h) := by
  have hseq : (s.further l unlock h).seq = s.seq := rfl
  rcases hs : s.seq with _ | ⟨u, k⟩
  · simp [transact, hs] at hw
  cases u <;> simp only [transact, hs, hseq] at hw ⊢
  case lock =>
    simp only [stepLock] at hw ⊢
    split at hw
    · next hl => simp only [hl, State.lockFree_further l unlock h hl, if_true]; rfl
    · exact absurd rfl hw
  case set u => simp only [stepSet, State.apply_further]; rfl
  case awaitFound | awaitReport =>
    rcases hh : s.host with _ | ⟨a, rest⟩
    · simp [stepAwaitFound, stepAwaitReport, hh] at hw
    · have hh' : (s.further l unlock h).host = a :: (rest ++ h) := by simp [State.further, hh]
      simp only [stepAwaitFound, stepAwaitReport, hh, hh'] at hw ⊢
      split at hw
      · next ha => simp only [ha, if_true]; rfl
      · exact absurd rfl hw
  case writeTx =>
    have hblock : (s.further l unlock h).txbuf.block? 0 (s.further l unlock h).txlen = s.txbuf.block? 0 s.txlen := rfl
    simp only [stepWriteTx, hblock] at hw ⊢
    cases hb : s.txbuf.block? 0 s.txlen with
    | none => rfl
    | some bs =>
      rw [hb] at hw
      exact State.askOr_further l unlock h (fun _ _ => rfl) hw
  case checksum | quirkStep | quirkCatch | afterPass | countUp | append | loopTest =>
    simp only [stepChecksum, stepQuirkStep, stepQuirkCatch, stepAfterPass, stepCountUp, stepAppend, stepLoopTest,
      apply_ite (Progress.map _)]
    rfl
  case report e todo => cases todo <;> rfl
  case resetAddressed | passReset | passComplement =>
    refine State.askOr_further l unlock h (fun r s' => ?_) hw
    simp only [apply_ite (Progress.map _)]
    rfl
  case resetIgnored | writeByte | writeId | readId | readRx | resumePower | suspendPower | passCommand | passTrue
      | passWrite => exact State.askOr_further l unlock h (fun _ _ => rfl) hw
  all_goals rfl

/-- Running on with more to come is running on as far as it goes without, and going on from there. -/
theorem run_further {s t : State} (ht : run s = .next t) :
    run (s.further l unlock h) = run (t.further l unlock h) := by
  refine (run_induct (P := fun t => run (s.further l unlock h) = run (t.further l unlock h))
    (fun a b ha hm => ha.trans (run_moved ?_)) rfl ht).1
  rw [transact_further l unlock h (by rw [hm]; nofun), hm]
  rfl

end

/-- An operation left in flight passed the checks of its issue, and passes them with more to come. -/
theorem exec_further {i : Instr} {s t : State} (l : List Answer) (unlock : Bool) (h : List HostInput)
    (ht : exec i s = .next t) (hb : t.status.busy = true) :
    exec i (s.further l unlock h) = run (t.further l unlock h) := by
  cases i
  case searchPass | acquire | release | scan =>
    simp only [exec, execSearchPass, execAcquire, execRelease, execScan] at ht
    split at ht
    · next hc => exact (if_pos hc).trans (run_further l unlock h ht)
    · cases ht; cases hb
  case writeRead =>
    simp only [exec, execWriteRead] at ht
    split at ht
    · cases ht
    · next hc =>
      split at ht
      · cases ht
      · next hc' => exact (if_neg hc).trans ((if_neg hc').trans (run_further l unlock h ht))
  case searchAll | readId | matchId | skip | resume | resetSelect => exact run_further l unlock h ht

/-- A step that runs the operation in flight on. -/
theorem step_running {s : State} (hb : s.status.busy = true) (hw : transact s ≠ .waiting) : step s = run s := by
  simp only [step, hb, if_true]

/-- Settles O58: what more there is changes no step made without it, so both runs come to the same state, and go on
from there alike. -/
theorem waitingOperationIsResumed : Obligations.WaitingOperationIsResumed := by
  intro f hf
  obtain ⟨l, unlock, h, rfl⟩ := furthers_eq_further hf
  refine ⟨fun i s t ht hb => ?_, fun s t hs hw ht hb => ?_⟩
  · rw [exec_further l unlock h ht hb]
    exact ⟨step_running hb, run_waiting⟩
  · have hw' : transact (s.further l unlock h) ≠ .waiting := by
      rw [transact_further l unlock h hw]
      cases hm : transact s with
      | waiting => exact absurd hm hw
      | _ => nofun
    rw [step_running (s := s.further l unlock h) hs hw', run_further l unlock h ((step_running hs hw).symm.trans ht)]
    exact ⟨step_running hb, run_waiting⟩

open Sys2Proof.Reference

/-! ### Accumulators by position (R64) -/

/-- Two accumulators agree on every position below one. -/
def AgreeBelow (pos : Nat) (a b : Acc) : Prop := ∀ q, 1 ≤ q → q < pos → accBit a q = accBit b q

theorem AgreeBelow.symm {pos : Nat} {a b : Acc} (h : AgreeBelow pos a b) : AgreeBelow pos b a :=
  fun q h1 hq => (h q h1 hq).symm

theorem AgreeBelow.trans {pos : Nat} {a b c : Acc} (h : AgreeBelow pos a b) (h' : AgreeBelow pos b c) :
    AgreeBelow pos a c := fun q h1 hq => (h q h1 hq).trans (h' q h1 hq)

theorem AgreeBelow.mono {m n : Nat} {a b : Acc} (h : AgreeBelow n a b) (hm : m ≤ n) : AgreeBelow m a b :=
  fun q h1 hq => h q h1 (by omega)

theorem agreeBelow_one (a b : Acc) : AgreeBelow 1 a b := fun q h1 hq => by omega

theorem agreeBelow_succ {pos : Nat} {a b : Acc} (h : AgreeBelow pos a b) (hpos : accBit a pos = accBit b pos) :
    AgreeBelow (pos + 1) a b := by
  intro q h1 hq
  by_cases hqp : q = pos
  · rw [hqp, hpos]
  · exact h q h1 (by omega)

/-- Accumulators that agree on all 64 positions are equal. -/
theorem AgreeBelow.eq {a b : Acc} (h : AgreeBelow 65 a b) : a = b :=
  BitVec.eq_of_getLsbD_eq fun n hn => h (n + 1) (by omega) (by omega)

/-- The bit at a position after one position has been written. -/
theorem accBit_setAccBit (a : Acc) {pos q : Nat} (d : Bool) (h1 : 1 ≤ pos) (hpos : pos ≤ 64) (hq : 1 ≤ q) :
    accBit (setAccBit a pos d) q = if q = pos then d else accBit a q := by
  have hlt : pos - 1 < 64 := by omega
  have hiff : pos - 1 = q - 1 ↔ q = pos := by omega
  have hone : (1#64 <<< (pos - 1)).getLsbD (q - 1) = decide (q = pos) := by
    rw [← BitVec.twoPow_eq, BitVec.getLsbD_twoPow]
    simp [hlt, hiff]
  by_cases hqp : q = pos
  · subst hqp
    cases d <;> simp [setAccBit, accBit, hlt]
  · cases d <;> simp [setAccBit, accBit, hone, hqp]
    exact BitVec.lt_of_getLsbD

/-- Writing the bit of `b` at the position that comes next keeps the agreement with `b`. -/
theorem agreeBelow_setAccBit {pos : Nat} {a b : Acc} (h1 : 1 ≤ pos) (hpos : pos ≤ 64) (h : AgreeBelow pos a b) :
    AgreeBelow (pos + 1) (setAccBit a pos (accBit b pos)) b := by
  intro q hq1 hq
  rw [accBit_setAccBit a _ h1 hpos hq1]
  split
  · next hqp => rw [hqp]
  · exact h q hq1 (by omega)

theorem accOf_idOf (a : Acc) : accOf (idOf a) = a := by
  rw [accOf_eq_append]
  simp (disch := decide) only [idOf, BitVec.extractLsb'_append_extractLsb'_eq_extractLsb']
  exact BitVec.extractLsb'_eq_self

/-! ### What a search pass leaves alone -/

/-- Between the two only the cursor, the transport and the output differ; the output has gained only calls, and the
lock is with the caller who had it. -/
def PassFrame (s t : State) : Prop :=
  ∃ (ld : Discrepancy) (acc : Acc) (bus : Transport) (l : List Event),
    t = { s with ld := ld, acc := acc, bus := bus, log := l ++ s.log } ∧
      bus.lockedElsewhere = s.bus.lockedElsewhere ∧ ∀ e ∈ l, isCall e = true

theorem PassFrame.refl (s : State) : PassFrame s s := ⟨s.ld, s.acc, s.bus, [], rfl, rfl, by simp⟩

theorem PassFrame.trans {s t u : State} (h : PassFrame s t) (h' : PassFrame t u) : PassFrame s u := by
  obtain ⟨_, _, bus, l, rfl, hl, hc⟩ := h
  obtain ⟨ld, acc, bus', l', rfl, hl', hc'⟩ := h'
  refine ⟨ld, acc, bus', l' ++ l, by simp, hl'.trans hl, fun e he => ?_⟩
  exact (List.mem_append.1 he).elim (hc' e) (hc e)

/-- The engine writes the cursor. -/
theorem PassFrame.cursor {s t : State} (h : PassFrame s t) (ld : Discrepancy) (acc : Acc) :
    PassFrame s { t with ld := ld, acc := acc } :=
  h.trans ⟨ld, acc, t.bus, [], rfl, rfl, by simp⟩

theorem PassFrame.of_ask {s s' : State} {c : Call} {r : Reply} (h : s.ask c = some (r, s')) : PassFrame s s' := by
  obtain ⟨bus, l, rfl, hl, hc⟩ := (Asked.call h).eq_bus_log
  exact ⟨s.ld, s.acc, bus, l, rfl, hl, hc⟩

theorem PassFrame.of_answers {s t : State} {l : List (Call × Reply)} (h : Answers s l t) : PassFrame s t := by
  induction l generalizing s with
  | nil => rw [answers_nil.1 h]; exact .refl s
  | cons q l ih =>
    obtain ⟨s', ha, h⟩ := answers_cons.1 h
    exact (PassFrame.of_ask ha).trans (ih h)

section
variable {s t : State} (h : PassFrame s t)
include h

theorem PassFrame.params : t.params = s.params := by obtain ⟨_, _, _, _, rfl, -⟩ := h; rfl
theorem PassFrame.count : t.count = s.count := by obtain ⟨_, _, _, _, rfl, -⟩ := h; rfl
theorem PassFrame.host : t.host = s.host := by obtain ⟨_, _, _, _, rfl, -⟩ := h; rfl

end

/-! ### One position of a pass, and the pass (R131) -/

/-- What a pass makes of the pair read at a position, if it is not `(1, 1)`: the direction, and the new `next`
(R132, R133). -/
def passChoice (ld : Discrepancy) (acc : Acc) (pos : Nat) (next : Discrepancy) (b c : Bool) : Bool × Discrepancy :=
  if b != c then (b, next) else if takesOne ld acc pos then (true, BitVec.ofNat 7 pos) else (false, next)

/-- From `s`, the transport answers both reads and the write at a position, with which the pass takes the direction
`d`, has `next'` for `next`, and is in `s'`. -/
def PositionMade (pos : Nat) (d : Bool) (s : State) (next : Discrepancy) (s' : State) (next' : Discrepancy) : Prop :=
  ∃ (b c : Bool) (t : State),
    Answers s [(.readBit, .bit b), (.readBit, .bit c), (.writeBit d, .ok)] t ∧ (b && c) = false ∧
      passChoice s.ld s.acc pos next b c = (d, next') ∧ s' = { t with acc := setAccBit s.acc pos d }

@[simp] theorem Reply.flag_bit (b : Bool) : (Reply.bit b).flag = b := rfl

section
variable {pos : Nat} {d : Bool} {s s' : State} {next next' : Discrepancy} {k : List UOp}

theorem run_position (h : PositionMade pos d s next s' next') :
    run (s.goto (.passTrue pos next :: k)) =
      if pos < lastPosition then run (s'.goto (.passTrue (pos + 1) next' :: k))
      else run ({ s' with ld := next' }.goto k) := by
  obtain ⟨b, c, t, ⟨s₁, h₁, s₂, h₂, s₃, h₃, rfl⟩, hbc, hchoice, rfl⟩ := h
  have hld : s₂.ld = s.ld := (State.ask_ld h₂).trans (State.ask_ld h₁)
  have hacc : s₂.acc = s.acc := (State.ask_acc h₂).trans (State.ask_acc h₁)
  have hacc' : t.acc = s.acc := (State.ask_acc h₃).trans hacc
  have hcomplement :
      run (s₁.goto (.passComplement pos next b :: k)) = run (s₂.goto (.passWrite pos next' d :: k)) := by
    rw [run_passComplement h₂ nofun, hld, hacc, Reply.flag_bit, hbc, if_neg Bool.false_ne_true]
    unfold passChoice at hchoice
    split at hchoice
    · next hne => rw [if_pos hne]; cases hchoice; rfl
    · next hne =>
      rw [if_neg hne]
      split at hchoice
      · next ht => rw [if_pos ht]; cases hchoice; rfl
      · next ht => rw [if_neg ht]; cases hchoice; rfl
  rw [run_passTrue h₁ nofun, Reply.flag, hcomplement, run_passWrite h₃ nofun, hacc']

theorem PositionMade.frame (h : PositionMade pos d s next s' next') : PassFrame s s' := by
  obtain ⟨b, c, t, ht, -, -, rfl⟩ := h
  exact (PassFrame.of_answers ht).cursor t.ld _

theorem PositionMade.acc (h : PositionMade pos d s next s' next') : s'.acc = setAccBit s.acc pos d := by
  obtain ⟨b, c, t, -, -, -, rfl⟩ := h
  rfl

theorem PositionMade.ld (h : PositionMade pos d s next s' next') : s'.ld = s.ld := by
  obtain ⟨b, c, t, ⟨s₁, h₁, s₂, h₂, s₃, h₃, rfl⟩, -, -, rfl⟩ := h
  exact (State.ask_ld h₃).trans ((State.ask_ld h₂).trans (State.ask_ld h₁))

end

/-- The reset and the command byte of a pass, answered. -/
theorem run_passOpening {s t : State} {scmd : Byte} {after : Option SearchMode} {k : List UOp}
    (h : Answers s [(.reset, .presence true), (.writeByte scmd, .ok)] t) :
    run (s.goto (.passReset scmd after :: k)) = run (t.goto (.passTrue 1 ldLast :: afterReset scmd after k)) := by
  obtain ⟨s₁, h₁, s₂, h₂, rfl⟩ := h
  rw [run_passReset h₁ nofun, Reply.flag, if_pos rfl, run_passCommand h₂ nofun]

/-- The induction of a pass: what holds at position 1, and is carried by each position to the next, holds after
position 64. -/
theorem run_positions {I : Nat → Discrepancy → State → Prop}
    (step : ∀ pos next s, 1 ≤ pos → pos ≤ 64 → I pos next s →
      ∃ d s' next', PositionMade pos d s next s' next' ∧ I (pos + 1) next' s')
    {s : State} {k : List UOp} (h : I 1 ldLast s) :
    ∃ t next, run (s.goto (.passTrue 1 ldLast :: k)) = run ({ t with ld := next }.goto k) ∧ I 65 next t := by
  have key (n : Nat) : ∀ pos next s, pos + n = 64 → 1 ≤ pos → I pos next s →
      ∃ t next', run (s.goto (.passTrue pos next :: k)) = run ({ t with ld := next' }.goto k) ∧ I 65 next' t := by
    induction n with
    | zero =>
      intro pos next s hn h1 hI
      obtain ⟨d, s', next', hmade, hI'⟩ := step pos next s h1 (by omega) hI
      obtain rfl : pos = 64 := hn
      exact ⟨s', next', (run_position hmade).trans (if_neg (by decide)), hI'⟩
    | succ n ih =>
      intro pos next s hn h1 hI
      obtain ⟨d, s', next', hmade, hI'⟩ := step pos next s h1 (by omega) hI
      have hlt : pos < lastPosition := by simp only [lastPosition]; omega
      rw [run_position hmade, if_pos hlt]
      exact ih (pos + 1) next' s' (by omega) (by omega) hI'
  exact key 63 1 ldLast s rfl le_rfl h

/-- SEARCH_PASS from a cursor it may start from is one pass from the open bracket (R130). -/
theorem exec_searchPass_opened {s : State} {alarm : Bool} {fam : Byte} (hld : s.ld.toNat ≤ 64)
    (hl : s.lockFree = true) :
    exec (.searchPass alarm fam) s =
      run ((opened s).goto [.passReset (searchCommand s.params alarm) none, .unlock, .finish .ok]) :=
  (if_pos (decide_eq_true hld)).trans (start_opened hl)

/-! ### A pass in which all agree (R131, R133) -/

/-- The answers at a position where all agree on the bit `d`. -/
def agreedAt (a : Acc) (n : Nat) : List Answer :=
  [.value [(BitVec.ofBool (a.getLsbD n)).setWidth 8], .value [(BitVec.ofBool (!a.getLsbD n)).setWidth 8], .value []]

theorem agreedAnswers_eq (a : Acc) :
    agreedAnswers a = .value [1] :: .value [] :: (List.range' 0 64).flatMap (agreedAt a) := by
  rw [← List.range_eq_range']
  rfl

theorem ask_value {s : State} {bs : List Byte} {more : List Answer} (c : Call)
    (h : s.bus.answers = .value bs :: more) :
    ∃ s', s.ask c = some (valueReply c bs, s') ∧ s'.bus.answers = more :=
  ⟨_, by rw [State.ask, Transport.call, h]; rfl, rfl⟩

/-- A bit is bit 0 of the byte given. -/
theorem valueReply_readBit (d : Bool) : valueReply .readBit [(BitVec.ofBool d).setWidth 8] = .bit d := by
  cases d <;> rfl

/-- A pair that differs decides the direction by itself. -/
theorem position_agreed {s : State} {pos : Nat} {next : Discrepancy} {a : Acc} {more : List Answer}
    (h : s.bus.answers = agreedAt a (pos - 1) ++ more) :
    ∃ s', PositionMade pos (accBit a pos) s next s' next ∧ s'.bus.answers = more := by
  obtain ⟨s₁, h₁, ha₁⟩ := ask_value .readBit h
  obtain ⟨s₂, h₂, ha₂⟩ := ask_value .readBit ha₁
  obtain ⟨s₃, h₃, ha₃⟩ := ask_value (.writeBit (accBit a pos)) ha₂
  rw [valueReply_readBit] at h₁ h₂
  exact ⟨_, ⟨_, _, s₃, ⟨s₁, h₁, s₂, h₂, s₃, h₃, rfl⟩, by simp, by simp [passChoice, accBit], rfl⟩, ha₃⟩

/-- Where a pass stands in which all agree on the bits of `a`. -/
structure Agreeing (a : Acc) (rest : List Answer) (s₀ : State) (pos : Nat) (next : Discrepancy) (s : State) :
    Prop where
  frame : PassFrame s₀ s
  next : next = ldLast
  chosen : AgreeBelow pos s.acc a
  answers : s.bus.answers = (List.range' (pos - 1) (65 - pos)).flatMap (agreedAt a) ++ rest

theorem Agreeing.position {a : Acc} {rest : List Answer} {s₀ s : State} {pos : Nat} {next : Discrepancy}
    (h1 : 1 ≤ pos) (hpos : pos ≤ 64) (h : Agreeing a rest s₀ pos next s) :
    ∃ d s' next', PositionMade pos d s next s' next' ∧ Agreeing a rest s₀ (pos + 1) next' s' := by
  have hans := h.answers
  rw [show 65 - pos = 64 - pos + 1 by omega, List.range'_succ, List.flatMap_cons, List.append_assoc] at hans
  obtain ⟨s', hmade, hans'⟩ := position_agreed (next := next) hans
  refine ⟨_, s', next, hmade, h.frame.trans hmade.frame, h.next, ?_, ?_⟩
  · rw [hmade.acc]
    exact agreeBelow_setAccBit h1 hpos h.chosen
  · rw [hans', show pos + 1 - 1 = pos - 1 + 1 by omega, show 65 - (pos + 1) = 64 - pos by omega]

/-- Settles O38: every pair differs, so every bit read is the direction taken, and `next` stays `LD_LAST`. -/
theorem agreedPassReadsTheIdentifier : Obligations.AgreedPassReadsTheIdentifier := by
  intro s alarm fam a rest hld hl hans
  have hans : (opened s).bus.answers = agreedAnswers a ++ rest := hans
  rw [agreedAnswers_eq] at hans
  obtain ⟨s₁, h₁, ha₁⟩ := ask_value .reset hans
  obtain ⟨s₂, h₂, ha₂⟩ := ask_value (.writeByte (searchCommand s.params alarm)) ha₁
  have hI : Agreeing a rest s₂ 1 ldLast s₂ := ⟨.refl s₂, rfl, agreeBelow_one _ _, ha₂⟩
  obtain ⟨t, next, hrun, ht⟩ := run_positions (k := [.unlock, .finish .ok])
    (fun _ _ _ h1 hpos => Agreeing.position (rest := rest) (s₀ := s₂) h1 hpos) hI
  refine ⟨_, (exec_searchPass_opened hld hl).trans ((run_passOpening ⟨s₁, h₁, s₂, h₂, rfl⟩).trans
    (hrun.trans (run_unlock_finish _ _ _))), rfl, rfl, ht.next, ht.chosen.eq, ?_⟩
  exact ht.answers.trans (List.nil_append rest)

/-! ### The devices of a search (R77, R78) -/

/-- The device takes part in the search: in a normal one every device, in an alarm search the alarmed ones (R77). -/
def takesPart (alarm : Bool) (d : Device) : Bool := !alarm || d.alarm

/-- The identifiers of the devices that take part. -/
def contenders (alarm : Bool) (ds : List Device) : List Acc := (ds.filter (takesPart alarm)).map fun d => d.rom

theorem mem_contenders {alarm : Bool} {ds : List Device} {x : Acc} :
    x ∈ contenders alarm ds ↔ ∃ d ∈ ds, takesPart alarm d = true ∧ d.rom = x := by
  simp [contenders, and_assoc]

/-- No slot changes what a device is: its identifier, and whether it takes part. -/
theorem contenders_after (alarm : Bool) (p : Params) (l : List Slot) (ds : List Device) :
    contenders alarm (ds.map (Device.after p l)) = contenders alarm ds := by
  simp only [contenders, List.filter_map, List.map_map]
  rfl

/-- The device is still in the search: it takes part, and its bits are those of `b` at the positions passed. -/
def StillIn (alarm : Bool) (b : Acc) (pos : Nat) (d : Device) : Prop :=
  takesPart alarm d = true ∧ AgreeBelow pos d.rom b

/-- The mode of a device at a position of a search, after `phase` read slots of it: searching if it is still in, else
off (R78). -/
structure Device.InSearch (alarm : Bool) (b : Acc) (pos phase : Nat) (d : Device) : Prop where
  still : StillIn alarm b pos d → d.st.mode = .search pos phase
  out : ¬StillIn alarm b pos d → d.st.mode = .off

section
variable {alarm : Bool} {b : Acc} {pos phase : Nat} {p : Params} {d : Device}

/-- A searching device drives its bit in the first read slot of a position, the complement in the second. -/
theorem readSlot_search (c : Bool) (h : d.st.mode = .search pos c.toNat) :
    d.readSlot d.st = (accBit d.rom pos != c, { d.st with mode := .search pos (c.toNat + 1) }) := by
  cases c <;> simp [Device.readSlot, h]

/-- A device that is off drives nothing, and stays off. -/
theorem readSlot_off (h : d.st.mode = .off) : d.readSlot d.st = (true, d.st) := by simp [Device.readSlot, h]

theorem writeSlot_off (h : d.st.mode = .off) (v : Bool) : d.writeSlot p d.st v = d.st := by
  simp [Device.writeSlot, h]

/-- A device does not pull the line down in a read slot iff it is out, or its bit is that asked about. -/
theorem Device.InSearch.readSlot_eq_true (c : Bool) (h : d.InSearch alarm b pos c.toNat) :
    (d.readSlot d.st).1 = true ↔ (StillIn alarm b pos d → accBit d.rom pos = !c) := by
  by_cases hin : StillIn alarm b pos d
  · rw [readSlot_search c (h.still hin)]
    simp only [hin, forall_const]
    cases c <;> cases accBit d.rom pos <;> decide
  · rw [readSlot_off (h.out hin)]
    simp [hin]

theorem Device.InSearch.read (c : Bool) (h : d.InSearch alarm b pos c.toNat) :
    (d.after p [.read]).InSearch alarm b pos (c.toNat + 1) where
  still hin := congrArg (fun q => q.2.mode) (readSlot_search c (h.still hin))
  out hin := (congrArg (fun q => q.2.mode) (readSlot_off (h.out hin))).trans (h.out hin)

/-- To be in at the next position is to be in at this one, with the bit of `b`. -/
theorem stillIn_succ (h1 : 1 ≤ pos) :
    StillIn alarm b (pos + 1) d ↔ StillIn alarm b pos d ∧ accBit d.rom pos = accBit b pos :=
  ⟨fun ⟨hp, ha⟩ => ⟨⟨hp, ha.mono (by omega)⟩, ha pos h1 (by omega)⟩,
    fun ⟨⟨hp, ha⟩, hbit⟩ => ⟨hp, agreeBelow_succ ha hbit⟩⟩

/-- The write slot of a position, carrying the bit of `b`: a searching device goes on iff it has that bit. -/
theorem writeSlot_search (h : d.st.mode = .search pos 2) (hpos : pos < 64) :
    (d.writeSlot p d.st (accBit b pos)).mode =
      if accBit d.rom pos = accBit b pos then .search (pos + 1) 0 else .off := by
  by_cases hbit : accBit d.rom pos = accBit b pos
  · simp [Device.writeSlot, h, hbit, lastPosition, hpos]
  · simp [Device.writeSlot, h, hbit, Ne.symm hbit]

theorem Device.InSearch.write (h1 : 1 ≤ pos) (hpos : pos < 64) (h : d.InSearch alarm b pos 2) :
    (d.after p [.write (accBit b pos)]).InSearch alarm b (pos + 1) 0 where
  still hin := by
    obtain ⟨hin, hbit⟩ := (stillIn_succ (d := d) h1).1 hin
    exact (writeSlot_search (h.still hin) hpos).trans (if_pos hbit)
  out hout := by
    by_cases hin : StillIn alarm b pos d
    · have hbit : accBit d.rom pos ≠ accBit b pos := fun hbit =>
        hout ((stillIn_succ (d := d) h1).2 ⟨hin, hbit⟩)
      exact (writeSlot_search (h.still hin) hpos).trans (if_neg hbit)
    · exact (congrArg DeviceState.mode (writeSlot_off (h.out hin) _)).trans (h.out hin)

end

/-! ### The line during a search (R73, R78) -/

/-- One read slot: the AND of what the devices drive. -/
theorem wiredAnd_read_one (p : Params) (ds : List Device) :
    wiredAnd p [.read] ds = [ds.all fun d => (d.readSlot d.st).1] := by
  have hfold (v : Bool) : ds.foldl (fun line d => List.zipWith (· && ·) line (d.through p [.read] d.st).1) [v] =
      [v && ds.all fun d => (d.readSlot d.st).1] := by
    induction ds generalizing v with
    | nil => simp
    | cons d ds ih =>
      rw [List.foldl_cons, List.all_cons, ← Bool.and_assoc]
      exact ih _
  exact (hfold true).trans (by rw [Bool.true_and])

theorem wireReply_readBit (p : Params) (ds : List Device) :
    wireReply p .readBit ds = .bit (ds.all fun d => (d.readSlot d.st).1) := by
  rw [wireReply, Call.slots, wiredAnd_read_one]
  rfl

/-- The devices, the identifiers that take part and the answers to come, at a position of a search for `b`. -/
structure Searching (alarm : Bool) (l : List Acc) (b : Acc) (pos phase n : Nat) (more : List Answer) (s : State) :
    Prop where
  answers : s.bus.answers = List.replicate n .wire ++ more
  contenders : contenders alarm s.bus.devices = l
  modes : pos ≤ 64 → ∀ d ∈ s.bus.devices, d.InSearch alarm b pos phase

section
variable {alarm : Bool} {l : List Acc} {b : Acc} {pos n : Nat} {more : List Answer} {s : State}

/-- A read slot of a position: the line stays up iff every identifier still in has the bit asked about. -/
theorem Searching.read (c : Bool) (hpos : pos ≤ 64) (h : Searching alarm l b pos c.toNat (n + 1) more s) :
    ∃ v s', s.ask .readBit = some (.bit v, s') ∧
      (v = true ↔ ∀ x ∈ l, AgreeBelow pos x b → accBit x pos = !c) ∧
      Searching alarm l b pos (c.toNat + 1) n more s' := by
  have hmodes := h.modes hpos
  obtain ⟨s', hask, hmore, hdev⟩ := ask_slots_wire .readBit nofun h.answers
  rw [wireReply_readBit] at hask
  refine ⟨_, s', hask, ?_, hmore, ?_, fun _ => ?_⟩
  · rw [← h.contenders, List.all_eq_true]
    constructor
    · intro hv x hx hagree
      obtain ⟨d, hd, hpart, rfl⟩ := mem_contenders.1 hx
      exact ((hmodes d hd).readSlot_eq_true c).1 (hv d hd) ⟨hpart, hagree⟩
    · intro hx d hd
      exact ((hmodes d hd).readSlot_eq_true c).2 fun hin => hx _ (mem_contenders.2 ⟨d, hd, hin.1, rfl⟩) hin.2
  · rw [hdev, contenders_after, h.contenders]
  · rw [hdev]
    exact List.forall_mem_map.2 fun d hd => (hmodes d hd).read c

/-- The write slot of a position. -/
theorem Searching.write (h1 : 1 ≤ pos) (h : Searching alarm l b pos 2 (n + 1) more s) :
    ∃ s', s.ask (.writeBit (accBit b pos)) = some (.ok, s') ∧ Searching alarm l b (pos + 1) 0 n more s' := by
  obtain ⟨s', hask, hmore, hdev⟩ := ask_slots_wire (.writeBit (accBit b pos)) nofun h.answers
  refine ⟨s', hask, hmore, by rw [hdev, contenders_after, h.contenders], fun hpos => ?_⟩
  rw [hdev]
  exact List.forall_mem_map.2 fun d hd => (h.modes (by omega) d hd).write h1 (by omega)

/-- The mode the search command puts a device in (R77); of equal command bytes the normal search is taken first, then
the alarm search (log entry 21). -/
theorem commanded_search {p : Params} (hcmd : alarm = true → p.cmdAlarmSearch ≠ p.cmdSearchRom) (d : Device)
    (rc : Bool) :
    d.commanded p rc (searchCommand p alarm) = if takesPart alarm d then .search 1 0 else .off := by
  cases alarm
  · simp [Device.commanded, searchCommand, takesPart]
  · simp [Device.commanded, searchCommand, takesPart, hcmd rfl]

/-- The opening of a pass: every device that takes part is in at position 1. -/
theorem searching_opening (b : Acc) (hcmd : alarm = true → s.params.cmdAlarmSearch ≠ s.params.cmdSearchRom)
    (hne : s.bus.devices ≠ []) (h : s.bus.answers = List.replicate (n + 2) .wire ++ more) :
    ∃ t, Answers s [(.reset, .presence true), (.writeByte (searchCommand s.params alarm), .ok)] t ∧
      Searching alarm (contenders alarm s.bus.devices) b 1 0 n more t := by
  obtain ⟨t, ht, hmore, hdev⟩ := answers_addressed_wire (more := List.replicate n Answer.wire ++ more) hne
    h fun d => commanded_search hcmd d d.st.rc
  refine ⟨t, ht, hmore, ?_, fun _ => ?_⟩
  · rw [hdev]
    simp only [contenders, List.filter_map, List.map_map]
    rfl
  · rw [hdev]
    refine List.forall_mem_map.2 fun d _ => ⟨fun hin => if_pos hin.1, fun hout => if_neg fun hpart => hout ?_⟩
    exact ⟨hpart, agreeBelow_one _ _⟩

end

/-! ### The path of a pass: the order of discovery (R131, R132, R140) -/

/-- Of two identifiers the first is found before the second: at the first position where they differ it has the 1. -/
def Before (a b : Acc) : Prop :=
  ∃ q, 1 ≤ q ∧ q ≤ 64 ∧ accBit a q = true ∧ accBit b q = false ∧ AgreeBelow q a b

theorem Before.trans {a b c : Acc} (h : Before a b) (h' : Before b c) : Before a c := by
  obtain ⟨m, hm1, hm, ham, hbm, hagree⟩ := h
  obtain ⟨n, hn1, hn, hbn, hcn, hagree'⟩ := h'
  rcases lt_trichotomy m n with hlt | rfl | hlt
  · exact ⟨m, hm1, hm, ham, (hagree' m hm1 hlt).symm.trans hbm, hagree.trans (hagree'.mono hlt.le)⟩
  · exact absurd (hbn.symm.trans hbm) (by decide)
  · exact ⟨n, hn1, hn, (hagree n hn1 hlt).trans hbn, hcn, (hagree.mono hlt.le).trans hagree'⟩

theorem not_before_self (a : Acc) : ¬Before a a := by
  rintro ⟨q, -, -, h, h', -⟩
  exact Bool.false_ne_true (h'.symm.trans h)

/-- Two identifiers that differ have a first position where they do. -/
theorem before_or_before {a b : Acc} (h : a ≠ b) : Before a b ∨ Before b a := by
  have hex : ∃ q, 1 ≤ q ∧ q ≤ 64 ∧ accBit a q ≠ accBit b q := by
    by_contra hno
    refine h (AgreeBelow.eq fun q h1 hq => ?_)
    by_contra hne
    exact hno ⟨q, h1, by omega, hne⟩
  classical
  obtain ⟨h1, h64, hne⟩ := Nat.find_spec hex
  have hagree : AgreeBelow (Nat.find hex) a b := fun q hq1 hq => by
    by_contra hq'
    exact Nat.find_min hex hq ⟨hq1, by omega, hq'⟩
  cases ha : accBit a (Nat.find hex) <;> cases hb : accBit b (Nat.find hex)
  · exact absurd (ha.trans hb.symm) hne
  · exact .inr ⟨_, h1, h64, hb, ha, hagree.symm⟩
  · exact .inl ⟨_, h1, h64, ha, hb, hagree⟩
  · exact absurd (ha.trans hb.symm) hne

/-- Among some identifiers one is found first. -/
theorem exists_first {l : List Acc} (h : l ≠ []) : ∃ b ∈ l, ∀ x ∈ l, x = b ∨ Before b x := by
  induction l with
  | nil => exact absurd rfl h
  | cons a l ih =>
    by_cases hl : l = []
    · exact ⟨a, List.mem_cons_self, by simp [hl]⟩
    obtain ⟨b, hb, hfirst⟩ := ih hl
    by_cases hab : Before a b
    · refine ⟨a, List.mem_cons_self, List.forall_mem_cons.2 ⟨.inl rfl, fun x hx => .inr ?_⟩⟩
      rcases hfirst x hx with rfl | hx
      · exact hab
      · exact hab.trans hx
    · refine ⟨b, List.mem_cons_of_mem a hb, List.forall_mem_cons.2 ⟨?_, hfirst⟩⟩
      by_cases heq : a = b
      · exact .inl heq
      · exact .inr ((before_or_before heq).resolve_left hab)

/-- Distinct identifiers can be put in the order of discovery. -/
theorem exists_sorted {l : List Acc} (h : l.Nodup) : ∃ l' : List Acc, l'.Perm l ∧ l'.Pairwise Before := by
  induction hn : l.length generalizing l with
  | zero => exact ⟨[], by simp [List.length_eq_zero_iff.1 hn], .nil⟩
  | succ n ih =>
    obtain ⟨b, hb, hfirst⟩ := exists_first (l := l) (by rintro rfl; cases hn)
    obtain ⟨l', hperm, hsorted⟩ := ih (l := l.erase b) (h.erase b) (by rw [List.length_erase_of_mem hb, hn]; rfl)
    refine ⟨b :: l', (hperm.cons b).trans (List.perm_cons_erase hb).symm, hsorted.cons fun x hx => ?_⟩
    obtain ⟨hne, hx⟩ := (h.mem_erase_iff).1 (hperm.mem_iff.1 hx)
    exact (hfirst x hx).resolve_left hne

/-! ### Which identifier a pass finds -/

/-- From this cursor the tie-break leads to `b`: wherever an identifier that agrees with `b` so far differs from it,
the direction taken is that of `b`. -/
def LeadsTo (ld : Discrepancy) (acc : Acc) (l : List Acc) (b : Acc) : Prop :=
  ∀ q, 1 ≤ q → q ≤ 64 → ∀ x ∈ l, AgreeBelow q x b → accBit x q ≠ accBit b q → takesOne ld acc q = accBit b q

/-- At the position the pass to `b` takes the 1 where the line gives a choice. -/
def ChoosesOne (l : List Acc) (b : Acc) (q : Nat) : Prop :=
  accBit b q = true ∧ ∃ x ∈ l, AgreeBelow q x b ∧ accBit x q = false

/-- `next` after the positions below `pos` of the pass to `b`: the last of them at which it chose a 1, or
`LD_LAST`. -/
def LastChoice (l : List Acc) (b : Acc) (pos : Nat) (next : Discrepancy) : Prop :=
  (next = ldLast ∧ ∀ q, 1 ≤ q → q < pos → ¬ChoosesOne l b q) ∨
  (1 ≤ next.toNat ∧ next.toNat < pos ∧ ChoosesOne l b next.toNat ∧
    ∀ q, next.toNat < q → q < pos → ¬ChoosesOne l b q)

section
variable {l : List Acc} {a b : Acc} {pos : Nat} {ld next : Discrepancy}

theorem lastChoice_one : LastChoice l b 1 ldLast := .inl ⟨rfl, fun q h1 hq => by omega⟩

/-- A position at which no 1 is chosen leaves `next`. -/
theorem LastChoice.kept (h : LastChoice l b pos next) (hno : ¬ChoosesOne l b pos) :
    LastChoice l b (pos + 1) next := by
  have below {q : Nat} (hq : q < pos + 1) (hq' : q < pos → ¬ChoosesOne l b q) : ¬ChoosesOne l b q := by
    rcases Nat.lt_succ_iff_lt_or_eq.1 hq with hlt | rfl
    · exact hq' hlt
    · exact hno
  rcases h with ⟨hlast, hnone⟩ | ⟨h1, hlt, hone, hnone⟩
  · exact .inl ⟨hlast, fun q h1 hq => below hq (hnone q h1)⟩
  · exact .inr ⟨h1, by omega, hone, fun q hq hq' => below hq' (hnone q hq)⟩

/-- A position at which a 1 is chosen becomes `next`. -/
theorem lastChoice_chosen (h1 : 1 ≤ pos) (hpos : pos ≤ 64) (h : ChoosesOne l b pos) :
    LastChoice l b (pos + 1) (BitVec.ofNat 7 pos) := by
  have hnat : (BitVec.ofNat 7 pos).toNat = pos := by simp; omega
  exact .inr ⟨by omega, by omega, by rwa [hnat], fun q hq hq' => by omega⟩

theorem LastChoice.ne_ldNone (h : LastChoice l b 65 ld) : ld ≠ ldNone := by
  rintro rfl
  rcases h with ⟨h, -⟩ | ⟨-, h, -⟩
  · exact absurd h (by decide)
  · exact absurd h (by decide)

/-- `LD_LAST` iff nothing is left to be found after `b`. -/
theorem LastChoice.eq_ldLast (h : LastChoice l b 65 ld) (hnone : ∀ x ∈ l, ¬Before b x) : ld = ldLast := by
  rcases h with ⟨h, -⟩ | ⟨h1, hlt, ⟨hb, x, hx, hagree, hxb⟩, -⟩
  · exact h
  · exact absurd ⟨ld.toNat, h1, by omega, hb, hxb, hagree.symm⟩ (hnone x hx)

/-- Where an identifier first differs from one found before it, the latter has the 1. -/
theorem Before.accBit_eq_true {x : Acc} {q : Nat} (h : Before b x) (h1 : 1 ≤ q) (hagree : AgreeBelow q x b)
    (hne : accBit x q ≠ accBit b q) : accBit b q = true := by
  obtain ⟨m, hm1, -, hbm, hxm, hagree'⟩ := h
  rcases lt_trichotomy m q with hlt | rfl | hlt
  · exact absurd (hbm.symm.trans ((hagree m hm1 hlt).symm.trans hxm)) (by decide)
  · exact hbm
  · exact absurd (hagree' q h1 hlt).symm hne

theorem takesOne_above {acc : Acc} {q : Nat} (h : ld.toNat < q) : takesOne ld acc q = true := by
  simp [takesOne, h]

theorem takesOne_at (ld : Discrepancy) (acc : Acc) : takesOne ld acc ld.toNat = false := by simp [takesOne]

theorem takesOne_below {acc : Acc} {q : Nat} (h : q < ld.toNat) : takesOne ld acc q = accBit acc q := by
  simp [takesOne, h, h.le]

/-- From the initial cursor the tie-break takes every 1, and so leads to the identifier found before all others. -/
theorem leadsTo_first {acc : Acc} (h : ∀ x ∈ l, x = b ∨ Before b x) : LeadsTo ldInit acc l b := by
  intro q h1 hq x hx hagree hne
  have hbefore := (h x hx).resolve_left fun heq => hne (by rw [heq])
  rw [takesOne_above (show 0 < q by omega), hbefore.accBit_eq_true h1 hagree hne]

/-- The last 1 that the pass to `a` chose is where the identifier found next first differs from `a`: what the pass
left behind there goes after `a`, and nothing does from further on. -/
theorem LastChoice.next_differs (hlast : LastChoice l a 65 ld) (hb : b ∈ l) (hab : Before a b)
    (h : ∀ x ∈ l, x = b ∨ Before b x ∨ ¬Before a x) :
    1 ≤ ld.toNat ∧ ld.toNat ≤ 64 ∧ accBit a ld.toNat = true ∧ accBit b ld.toNat = false ∧
      AgreeBelow ld.toNat a b := by
  obtain ⟨k, hk1, hk, hak, hbk, hagree⟩ := hab
  have hone : ChoosesOne l a k := ⟨hak, b, hb, hagree.symm, hbk⟩
  rcases hlast with ⟨-, hnone⟩ | ⟨h1, hlt, ⟨ha, y, hy, hya, hyld⟩, hnone⟩
  · exact absurd hone (hnone k hk1 (by omega))
  rcases lt_trichotomy k ld.toNat with hlt' | rfl | hlt'
  · have hyk : accBit y k = true := (hya k hk1 hlt').trans hak
    have hyb : Before y b := ⟨k, hk1, hk, hyk, hbk, (hya.mono hlt'.le).trans hagree⟩
    have hay : Before a y := ⟨ld.toNat, h1, by omega, ha, hyld, hya.symm⟩
    rcases h y hy with rfl | hby | hnot
    · exact absurd hyb (not_before_self y)
    · exact absurd (hby.trans hyb) (not_before_self b)
    · exact absurd hay hnot
  · exact ⟨h1, hk, hak, hbk, hagree⟩
  · exact absurd hone (hnone k hlt' (by omega))

/-- From the cursor that the pass to `a` has left, the tie-break leads to the identifier found next after `a`: as
before up to the last choice, the 0 there, and every 1 from there on. -/
theorem LastChoice.leadsTo_next (hlast : LastChoice l a 65 ld) (hb : b ∈ l) (hab : Before a b)
    (h : ∀ x ∈ l, x = b ∨ Before b x ∨ ¬Before a x) : LeadsTo ld a l b := by
  obtain ⟨h1, h64, ha, hbld, hagree⟩ := hlast.next_differs hb hab h
  intro q hq1 hq x hx hxb hne
  rcases lt_trichotomy q ld.toNat with hlt | rfl | hlt
  · rw [takesOne_below hlt, hagree q hq1 hlt]
  · rw [takesOne_at, hbld]
  · have hxld : accBit x ld.toNat = false := (hxb _ h1 hlt).trans hbld
    have hax : Before a x := ⟨_, h1, h64, ha, hxld, hagree.trans (hxb.mono hlt.le).symm⟩
    have hbx : Before b x := by
      rcases h x hx with rfl | hbx | hnot
      · exact absurd rfl hne
      · exact hbx
      · exact absurd hax hnot
    rw [takesOne_above hlt, hbx.accBit_eq_true hq1 hxb hne]

/-- The pair that the line gives at a position decides for the bit of `b`, and `next` keeps count of the 1s chosen. -/
theorem passChoice_leadsTo {acc : Acc} {v w : Bool} (h1 : 1 ≤ pos) (hpos : pos ≤ 64) (hb : b ∈ l)
    (hlead : ∀ x ∈ l, AgreeBelow pos x b → accBit x pos ≠ accBit b pos → takesOne ld acc pos = accBit b pos)
    (hv : v = true ↔ ∀ x ∈ l, AgreeBelow pos x b → accBit x pos = true)
    (hw : w = true ↔ ∀ x ∈ l, AgreeBelow pos x b → accBit x pos = false) (hlast : LastChoice l b pos next) :
    (v && w) = false ∧
      ∃ next', passChoice ld acc pos next v w = (accBit b pos, next') ∧ LastChoice l b (pos + 1) next' := by
  have hself : AgreeBelow pos b b := fun _ _ _ => rfl
  rcases v with _ | _ <;> rcases w with _ | _
  · obtain ⟨x, hx, hagree, hzero⟩ : ∃ x ∈ l, AgreeBelow pos x b ∧ accBit x pos = false := by simpa using hv
    obtain ⟨y, hy, hagree', hone⟩ : ∃ y ∈ l, AgreeBelow pos y b ∧ accBit y pos = true := by simpa using hw
    rcases hbit : accBit b pos with _ | _
    · have ht := hlead y hy hagree' (by simp [hone, hbit])
      refine ⟨rfl, next, by simp [passChoice, ht, hbit], hlast.kept ?_⟩
      rintro ⟨hone, -⟩
      exact Bool.false_ne_true (hbit.symm.trans hone)
    · have ht := hlead x hx hagree (by simp [hzero, hbit])
      exact ⟨rfl, _, by simp [passChoice, ht, hbit], lastChoice_chosen h1 hpos ⟨hbit, x, hx, hagree, hzero⟩⟩
  · have hbit := hw.1 rfl b hb hself
    refine ⟨rfl, next, by rw [hbit]; rfl, hlast.kept ?_⟩
    rintro ⟨hone, -⟩
    exact Bool.false_ne_true (hbit.symm.trans hone)
  · have hbit := hv.1 rfl
    refine ⟨rfl, next, by rw [hbit b hb hself]; rfl, hlast.kept ?_⟩
    rintro ⟨-, x, hx, hagree, hzero⟩
    exact Bool.false_ne_true (hzero.symm.trans (hbit x hx hagree))
  · exact absurd ((hw.1 rfl b hb hself).symm.trans (hv.1 rfl b hb hself)) (by decide)

end

/-! ### A pass on the reference bus -/

theorem takesOne_congr {ld : Discrepancy} {a b : Acc} {pos : Nat} (h : accBit a pos = accBit b pos) :
    takesOne ld a pos = takesOne ld b pos := by rw [takesOne, takesOne, h]

/-- Where a pass to `b` stands that started at `s₀`, among the identifiers `l`. -/
structure OnPath (alarm : Bool) (l : List Acc) (b : Acc) (more : List Answer) (s₀ : State) (pos : Nat)
    (next : Discrepancy) (s : State) : Prop where
  frame : PassFrame s₀ s
  ld : s.ld = s₀.ld
  chosen : AgreeBelow pos s.acc b
  kept : ∀ q, pos ≤ q → accBit s.acc q = accBit s₀.acc q
  searching : Searching alarm l b pos 0 (3 * (65 - pos)) more s
  last : LastChoice l b pos next

/-- What a search does with `s` does not depend on the registers. -/
theorem Searching.of_bus_eq {alarm : Bool} {l : List Acc} {b : Acc} {pos phase n : Nat} {more : List Answer}
    {s t : State} (h : Searching alarm l b pos phase n more s) (ht : t.bus = s.bus) :
    Searching alarm l b pos phase n more t :=
  ⟨ht ▸ h.answers, ht ▸ h.contenders, ht ▸ h.modes⟩

theorem OnPath.position {alarm : Bool} {l : List Acc} {b : Acc} {more : List Answer} {s₀ s : State} {pos : Nat}
    {next : Discrepancy} (hb : b ∈ l) (hlead : LeadsTo s₀.ld s₀.acc l b) (h1 : 1 ≤ pos) (hpos : pos ≤ 64)
    (h : OnPath alarm l b more s₀ pos next s) :
    ∃ d s' next', PositionMade pos d s next s' next' ∧ OnPath alarm l b more s₀ (pos + 1) next' s' := by
  have hsearch := h.searching
  rw [show 3 * (65 - pos) = 3 * (65 - (pos + 1)) + 1 + 1 + 1 by omega] at hsearch
  obtain ⟨v, s₁, ask₁, hv, hsearch⟩ := hsearch.read false hpos
  obtain ⟨w, s₂, ask₂, hw, hsearch⟩ := hsearch.read true hpos
  obtain ⟨s₃, ask₃, hsearch⟩ := hsearch.write h1
  have hhere : ∀ x ∈ l, AgreeBelow pos x b → accBit x pos ≠ accBit b pos →
      takesOne s.ld s.acc pos = accBit b pos := by
    rw [h.ld, takesOne_congr (h.kept pos le_rfl)]
    exact hlead pos h1 hpos
  obtain ⟨hvw, next', hchoice, hlast⟩ := passChoice_leadsTo h1 hpos hb hhere hv hw h.last
  have hmade : PositionMade pos (accBit b pos) s next { s₃ with acc := setAccBit s.acc pos (accBit b pos) } next' :=
    ⟨v, w, s₃, ⟨s₁, ask₁, s₂, ask₂, s₃, ask₃, rfl⟩, hvw, hchoice, rfl⟩
  refine ⟨_, _, next', hmade, h.frame.trans hmade.frame, hmade.ld.trans h.ld, agreeBelow_setAccBit h1 hpos h.chosen,
    fun q hq => ?_, hsearch.of_bus_eq rfl, hlast⟩
  exact (accBit_setAccBit s.acc _ h1 hpos (by omega)).trans ((if_neg (by omega)).trans (h.kept q (by omega)))

/-- What a pass has done that was led to `b`. -/
structure PassFinds (alarm : Bool) (b : Acc) (more : List Answer) (s t : State) : Prop where
  frame : PassFrame s t
  acc : t.acc = b
  last : LastChoice (contenders alarm s.bus.devices) b 65 t.ld
  answers : t.bus.answers = more
  contenders : contenders alarm t.bus.devices = contenders alarm s.bus.devices

theorem ne_nil_of_mem_contenders {alarm : Bool} {ds : List Device} {x : Acc} (h : x ∈ contenders alarm ds) :
    ds ≠ [] := by
  rintro rfl
  cases h

section
variable {alarm : Bool} {s : State} {more : List Answer} {after : Option SearchMode} {k : List UOp}
  (hcmd : alarm = true → s.params.cmdAlarmSearch ≠ s.params.cmdSearchRom)
include hcmd

/-- A pass on the reference bus, led to `b`, makes its 194 calls and finds `b`. -/
theorem run_pass_finds {b : Acc} (hb : b ∈ contenders alarm s.bus.devices)
    (hlead : LeadsTo s.ld s.acc (contenders alarm s.bus.devices) b)
    (hans : s.bus.answers = List.replicate 194 .wire ++ more) :
    ∃ t, run (s.goto (.passReset (searchCommand s.params alarm) after :: k)) =
        run (t.goto (afterReset (searchCommand s.params alarm) after k)) ∧ PassFinds alarm b more s t := by
  obtain ⟨u, hopen, hsearch⟩ := searching_opening (n := 192) b hcmd (ne_nil_of_mem_contenders hb) hans
  have hframe := PassFrame.of_answers hopen
  obtain ⟨s₁, ask₁, s₂, ask₂, rfl⟩ := hopen
  have hld : u.ld = s.ld := (State.ask_ld ask₂).trans (State.ask_ld ask₁)
  have hacc : u.acc = s.acc := (State.ask_acc ask₂).trans (State.ask_acc ask₁)
  obtain ⟨t, next, hrun, ht⟩ := run_positions (k := afterReset (searchCommand s.params alarm) after k)
    (fun _ _ _ h1 hpos => OnPath.position hb (hld ▸ hacc ▸ hlead) h1 hpos)
    ⟨.refl u, rfl, agreeBelow_one _ _, fun _ _ => rfl, hsearch, lastChoice_one⟩
  exact ⟨_, (run_passOpening ⟨s₁, ask₁, u, ask₂, rfl⟩).trans hrun,
    (hframe.trans ht.frame).cursor next t.acc, ht.chosen.eq, ht.last,
    ht.searching.answers.trans (List.nil_append more), ht.searching.contenders⟩

/-- A pass on the reference bus in which no device takes part reads `(1, 1)` at position 1 and ends there (R139). -/
theorem run_pass_none (hnone : contenders alarm s.bus.devices = []) (hne : s.bus.devices ≠ [])
    (hans : s.bus.answers = List.replicate 4 .wire ++ more) :
    ∃ t, run (s.goto (.passReset (searchCommand s.params alarm) after :: k)) =
        run (t.goto (afterReset (searchCommand s.params alarm) after k)) ∧ PassFrame s t ∧ t.ld = ldNone ∧
      t.acc = s.acc ∧ t.bus.answers = more := by
  obtain ⟨u, hopen, hsearch⟩ := searching_opening (n := 2) 0 hcmd hne hans
  rw [hnone] at hsearch
  have hframe := PassFrame.of_answers hopen
  obtain ⟨v, t₁, ask₁, hv, hsearch⟩ := hsearch.read false (by decide)
  obtain ⟨w, t₂, ask₂, hw, hsearch⟩ := hsearch.read true (by decide)
  obtain rfl : v = true := hv.2 (by simp)
  obtain rfl : w = true := hw.2 (by simp)
  have hacc : t₂.acc = s.acc := by
    obtain ⟨s₁, h₁, s₂, h₂, rfl⟩ := hopen
    rw [State.ask_acc ask₂, State.ask_acc ask₁, State.ask_acc h₂, State.ask_acc h₁]
  have hframe' : PassFrame s t₂ := (hframe.trans (.of_ask ask₁)).trans (.of_ask ask₂)
  refine ⟨{ t₂ with ld := ldNone }, ?_, hframe'.cursor ldNone t₂.acc, rfl, hacc,
    hsearch.answers.trans (List.nil_append more)⟩
  rw [run_passOpening hopen, run_passTrue ask₁ nofun, run_passComplement ask₂ nofun]
  rfl

end

/-! ### Single passes on the reference bus (R132, R140) -/

/-- The bus lock is as free after a bracket as it was before it. -/
theorem PassFrame.closed_lockFree {s t : State} (h : PassFrame (opened s) t) (hl : s.lockFree = true) (e : Err) :
    (closed t e).lockFree = true := by
  obtain ⟨ld, acc, bus, l, rfl, hbus, -⟩ := h
  have hbus : bus.lockedElsewhere = s.bus.lockedElsewhere := hbus
  simpa [closed, opened, State.lockFree, hbus] using hl

/-- SEARCH_PASS on the reference bus, its cursor leading to `b`. -/
theorem exec_searchPass_on_wire {s : State} {alarm : Bool} {fam : Byte} {b : Acc} {more : List Answer}
    (hcmd : alarm = true → s.params.cmdAlarmSearch ≠ s.params.cmdSearchRom) (hl : s.lockFree = true)
    (hld : s.ld.toNat ≤ 64) (hb : b ∈ contenders alarm s.bus.devices)
    (hlead : LeadsTo s.ld s.acc (contenders alarm s.bus.devices) b)
    (hans : s.bus.answers = List.replicate 194 .wire ++ more) :
    ∃ t, exec (.searchPass alarm fam) s = .next (closed t .ok) ∧ PassFinds alarm b more (opened s) t := by
  obtain ⟨t, hrun, ht⟩ := run_pass_finds (s := opened s) (after := none) (k := [.unlock, .finish .ok])
    hcmd hb hlead hans
  exact ⟨t, (exec_searchPass_opened hld hl).trans (hrun.trans (run_unlock_finish _ _ _)), ht⟩

/-- The SEARCH_PASS after one that found `a` finds the identifier next after `a`. -/
theorem exec_searchPass_next {s t : State} {alarm : Bool} {fam : Byte} {a b : Acc} {more : List Answer}
    (ht : PassFinds alarm a (List.replicate 194 .wire ++ more) (opened s) t)
    (hcmd : alarm = true → s.params.cmdAlarmSearch ≠ s.params.cmdSearchRom) (hl : s.lockFree = true)
    (hb : b ∈ contenders alarm s.bus.devices) (hab : Before a b)
    (hnext : ∀ x ∈ contenders alarm s.bus.devices, x = b ∨ Before b x ∨ ¬Before a x) :
    ∃ u, exec (.searchPass alarm fam) (closed t .ok) = .next (closed u .ok) ∧
      PassFinds alarm b more (opened (closed t .ok)) u := by
  have hparams : (closed t .ok).params = s.params := ht.frame.params
  have hcontenders : contenders alarm (closed t .ok).bus.devices = contenders alarm s.bus.devices := ht.contenders
  obtain ⟨-, h64, -⟩ := ht.last.next_differs hb hab hnext
  refine exec_searchPass_on_wire (hparams ▸ hcmd) (ht.frame.closed_lockFree hl .ok) h64 (hcontenders ▸ hb) ?_
    ht.answers
  rw [hcontenders, show (closed t .ok).acc = a from ht.acc]
  exact ht.last.leadsTo_next hb hab hnext

/-- An identifier goes before the one that differs from it by a 0 at one position. -/
theorem before_setAccBit_false {a : Acc} {k : Nat} (h1 : 1 ≤ k) (hk : k ≤ 64) (h : accBit a k = true) :
    Before a (setAccBit a k false) := by
  refine ⟨k, h1, hk, h, by rw [accBit_setAccBit a _ h1 hk h1, if_pos rfl], fun q hq1 hq => ?_⟩
  rw [accBit_setAccBit a _ h1 hk hq1, if_neg (by omega)]

theorem eq_of_accBit_ne {a : Acc} {k q : Nat} {d : Bool} (h1 : 1 ≤ k) (hk : k ≤ 64) (hq : 1 ≤ q)
    (h : accBit a q ≠ accBit (setAccBit a k d) q) : q = k := by
  by_contra hne
  exact h (by rw [accBit_setAccBit a d h1 hk hq, if_neg hne])

/-- Settles O44: the first pass takes the 1 at the one position with a choice, and the next the 0. -/
theorem twoDevicesAreFoundOneThenZero : Obligations.TwoDevicesAreFoundOneThenZero := by
  intro s d0 d1 k more hl hld hk1 hk hone hzero hdev hans
  have hbefore : Before d1.rom d0.rom := hzero ▸ before_setAccBit_false hk1 hk hone
  have hmem (x : Acc) : x ∈ contenders false s.bus.devices ↔ x = d0.rom ∨ x = d1.rom := by
    rcases hdev with hdev | hdev <;> simp [hdev, contenders, takesPart, or_comm]
  have hmem₀ := (hmem d0.rom).2 (.inl rfl)
  have hfirst : ∀ x ∈ contenders false s.bus.devices, x = d1.rom ∨ Before d1.rom x := by
    intro x hx
    rcases (hmem x).1 hx with rfl | rfl
    · exact .inr hbefore
    · exact .inl rfl
  have hnext : ∀ x ∈ contenders false s.bus.devices, x = d0.rom ∨ Before d0.rom x ∨ ¬Before d1.rom x := by
    intro x hx
    rcases (hmem x).1 hx with rfl | rfl
    · exact .inl rfl
    · exact .inr (.inr (not_before_self _))
  rw [show 388 = 194 + 194 from rfl, List.replicate_add, List.append_assoc] at hans
  obtain ⟨t, hexec, ht⟩ := exec_searchPass_on_wire (alarm := false) (fam := 0) nofun hl (by simp [hld])
    ((hmem d1.rom).2 (.inr rfl)) (hld ▸ leadsTo_first hfirst) hans
  obtain ⟨h1, -, hbit₁, hbit₀, -⟩ := ht.last.next_differs hmem₀ hbefore hnext
  have hk' : t.ld.toNat = k := eq_of_accBit_ne (d := false) hk1 hk h1 (by rw [← hzero, hbit₁, hbit₀]; decide)
  obtain ⟨u, hexec', hu⟩ := exec_searchPass_next (fam := 0) ht nofun hl hmem₀ hbefore hnext
  have hlast : u.ld = ldLast := by
    refine hu.last.eq_ldLast fun x hx hbefore' => ?_
    rcases (hmem x).1 (ht.contenders ▸ hx) with rfl | rfl
    · exact not_before_self _ hbefore'
    · exact not_before_self _ (hbefore.trans hbefore')
  exact ⟨_, _, hexec, rfl, hk', ht.acc, hexec', rfl, hlast, hu.acc, hu.answers⟩

/-! ### The search loop on the reference bus (R136, R140) -/

theorem foundIn_append (l l' : List Event) : foundIn (l ++ l') = foundIn l' ++ foundIn l := by
  simp [foundIn, List.filterMap_append]

/-- Transport calls are no found events. -/
theorem foundIn_of_isCall {l : List Event} (h : ∀ e ∈ l, isCall e = true) : foundIn l = [] := by
  simp only [foundIn, List.filterMap_eq_nil_iff, List.mem_reverse]
  intro e he
  have hcall := h e he
  cases e with
  | call => rfl
  | _ => cases hcall

/-- An identifier found is counted, finalized, emitted, and taken by the host, whose accesses to come are `rest`. -/
def State.delivered (s : State) (rest : List HostInput) : State :=
  { s with count := s.count + 1, id := idOf s.acc }.emitFound.foundTaken rest

section
variable (s : State) (rest : List HostInput)
@[simp] theorem State.delivered_ld : (s.delivered rest).ld = s.ld := rfl
@[simp] theorem State.delivered_acc : (s.delivered rest).acc = s.acc := rfl
@[simp] theorem State.delivered_id : (s.delivered rest).id = idOf s.acc := rfl
@[simp] theorem State.delivered_count : (s.delivered rest).count = s.count + 1 := rfl
@[simp] theorem State.delivered_params : (s.delivered rest).params = s.params := rfl
@[simp] theorem State.delivered_host : (s.delivered rest).host = rest := rfl
@[simp] theorem State.delivered_bus : (s.delivered rest).bus = s.bus := rfl
@[simp] theorem State.delivered_log : (s.delivered rest).log = .found (idOf s.acc) :: s.log := rfl
end

/-- The loop after a pass that found an identifier, up to its next pass or its end. -/
theorem run_delivery {s : State} {a : HostInput} {rest : List HostInput} {scmd : Byte} {k : List UOp}
    (hld : s.ld ≠ ldNone) (hc : s.count ≠ BitVec.allOnes 32) (hh : s.host = a :: rest)
    (ha : takesEvent a = true) :
    run (s.goto (.afterPass scmd .emit :: k)) =
      run ((s.delivered rest).goto (if s.ld = ldLast then k else .passReset scmd (some .emit) :: k)) := by
  rw [run_afterPass_some _ _ _ hld hc]
  exact (run_emitFound _ _).trans
    ((run_awaitFound (s := { s with count := s.count + 1, id := idOf s.acc }.emitFound) _ hh ha).trans
      (run_loopTest _ _ _ _))

/-- SEARCH_ALL is the loop from the open bracket and the fresh cursor (R136). -/
theorem exec_searchAll_opened {s : State} {alarm : Bool} {fam : Byte} (hl : s.lockFree = true) :
    exec (.searchAll alarm fam) s =
      run ((fresh (opened s)).goto
        [.passReset (searchCommand s.params alarm) (some .emit), .unlock, .finish .ok]) :=
  (start_opened hl).trans (run_freshCursor _ _)

/-- The search loop at a pass that is to find `b`, the identifiers `bs` being found after it, in this order; the host
is to take each by one of `hs`. -/
structure LoopReady (alarm : Bool) (b : Acc) (bs : List Acc) (hs : List HostInput) (more : List Answer)
    (rest : List HostInput) (s : State) : Prop where
  distinct : alarm = true → s.params.cmdAlarmSearch ≠ s.params.cmdSearchRom
  sorted : (b :: bs).Pairwise Before
  present : ∀ x ∈ b :: bs, x ∈ contenders alarm s.bus.devices
  others : ∀ x ∈ contenders alarm s.bus.devices, x ∈ b :: bs ∨ Before x b
  leads : LeadsTo s.ld s.acc (contenders alarm s.bus.devices) b
  count : s.count.toNat + (bs.length + 1) < 2 ^ 32
  answers : s.bus.answers = List.replicate (194 * (bs.length + 1)) .wire ++ more
  host : s.host = hs ++ rest
  enough : hs.length = bs.length + 1
  takes : ∀ a ∈ hs, takesEvent a = true

/-- What the search loop has done that found `bs`, in this order. -/
structure LoopFinds (bs : List Acc) (more : List Answer) (rest : List HostInput) (s t : State) : Prop where
  output : ∃ l, Gained s t l ∧ foundIn l = bs.map idOf
  ld : t.ld = ldLast
  acc : bs.getLast? = some t.acc
  id : t.id = idOf t.acc
  count : t.count.toNat = s.count.toNat + bs.length
  answers : t.bus.answers = more
  host : t.host = rest

section
variable {alarm : Bool} {b b' : Acc} {bs : List Acc} {a : HostInput} {hs : List HostInput} {more : List Answer}
  {rest : List HostInput} {s t : State}

/-- Where more is to be found than `b`, what is next in the order goes before all else that `b` goes before. -/
theorem LoopReady.next_first (h : LoopReady alarm b (b' :: bs) hs more rest s) :
    ∀ x ∈ contenders alarm s.bus.devices, x = b' ∨ Before b' x ∨ ¬Before b x := by
  obtain ⟨hbefore, hsorted⟩ := List.pairwise_cons.1 h.sorted
  intro x hx
  rcases h.others x hx with hx | hx
  · rcases List.mem_cons.1 hx with rfl | hx
    · exact .inr (.inr (not_before_self x))
    · rcases List.mem_cons.1 hx with rfl | hx
      · exact .inl rfl
      · exact .inr (.inl ((List.pairwise_cons.1 hsorted).1 x hx))
  · exact .inr (.inr fun hbx => not_before_self x (hx.trans hbx))

theorem count_succ {c : BitVec 32} {n : Nat} (h : c.toNat + (n + 1) < 2 ^ 32) : (c + 1).toNat = c.toNat + 1 := by
  rw [BitVec.toNat_add]
  exact Nat.mod_eq_of_lt (by simp; omega)

theorem count_ne_allOnes {c : BitVec 32} {n : Nat} (h : c.toNat + (n + 1) < 2 ^ 32) : c ≠ BitVec.allOnes 32 := by
  rintro rfl
  simp at h
  omega

/-- The pass that finds `b`, and the delivery, leave the loop ready for the next identifier in the order. -/
theorem LoopReady.next (h : LoopReady alarm b (b' :: bs) (a :: hs) more rest s)
    (ht : PassFinds alarm b (List.replicate (194 * (bs.length + 1)) .wire ++ more) s t) :
    t.ld ≠ ldLast ∧ LoopReady alarm b' bs hs more rest (t.delivered (hs ++ rest)) := by
  have hb' : b' ∈ contenders alarm s.bus.devices := h.present b' (by simp)
  obtain ⟨hbefore, hsorted⟩ := List.pairwise_cons.1 h.sorted
  have hbb' : Before b b' := hbefore b' List.mem_cons_self
  obtain ⟨-, h64, -⟩ := ht.last.next_differs hb' hbb' h.next_first
  have hcount := h.count
  rw [List.length_cons] at hcount
  refine ⟨fun hlast => ?_, ?_⟩
  · rw [hlast] at h64
    exact absurd h64 (by decide)
  · exact {
      distinct := by rw [State.delivered_params, ht.frame.params]; exact h.distinct
      sorted := hsorted
      present := fun x hx => by
        rw [State.delivered_bus, ht.contenders]
        exact h.present x (List.mem_cons_of_mem b hx)
      others := fun x hx => by
        rw [State.delivered_bus, ht.contenders] at hx
        rcases h.others x hx with hx | hx
        · rcases List.mem_cons.1 hx with rfl | hx
          · exact .inr hbb'
          · exact .inl hx
        · exact .inr (hx.trans hbb')
      leads := by
        rw [State.delivered_bus, ht.contenders, State.delivered_acc, ht.acc]
        exact ht.last.leadsTo_next hb' hbb' h.next_first
      count := by
        rw [State.delivered_count, ht.frame.count, count_succ hcount]
        omega
      answers := ht.answers
      host := rfl
      enough := by simpa using h.enough
      takes := fun x hx => h.takes x (List.mem_cons_of_mem a hx) }

/-- Between a pass that found `b` and the state after its delivery. -/
theorem PassFinds.delivered (h : PassFinds alarm b more s t) (hc : s.count.toNat + (bs.length + 1) < 2 ^ 32)
    (rest : List HostInput) :
    (∃ l, Gained s (t.delivered rest) l ∧ foundIn l = [idOf b]) ∧
      (t.delivered rest).count.toNat = s.count.toNat + 1 := by
  obtain ⟨⟨_, _, _, l, rfl, -, hcalls⟩, rfl, -⟩ := h
  refine ⟨⟨.found (idOf _) :: l, rfl, ?_⟩, count_succ hc⟩
  exact (foundIn_append [_] l).trans (by rw [foundIn_of_isCall hcalls]; rfl)

/-- One round of the loop. -/
theorem LoopReady.round (k : List UOp) (h : LoopReady alarm b bs hs more rest s) :
    ∃ a hs' t, hs = a :: hs' ∧ PassFinds alarm b (List.replicate (194 * bs.length) .wire ++ more) s t ∧
      run (s.goto (.passReset (searchCommand s.params alarm) (some .emit) :: k)) =
        run ((t.delivered (hs' ++ rest)).goto
          (if t.ld = ldLast then k else .passReset (searchCommand s.params alarm) (some .emit) :: k)) := by
  have hans := h.answers
  rw [show 194 * (bs.length + 1) = 194 + 194 * bs.length by omega, List.replicate_add, List.append_assoc] at hans
  obtain ⟨t, hrun, ht⟩ := run_pass_finds (after := some .emit) (k := k) h.distinct (h.present b List.mem_cons_self)
    h.leads hans
  obtain _ | ⟨a, hs'⟩ := hs
  · cases h.enough
  · have hc : t.count ≠ BitVec.allOnes 32 := by rw [ht.frame.count]; exact count_ne_allOnes h.count
    exact ⟨a, hs', t, rfl, ht, hrun.trans (run_delivery ht.last.ne_ldNone hc (ht.frame.host.trans h.host)
      (h.takes a List.mem_cons_self))⟩

/-- After the identifier found last the loop is at its end. -/
theorem LoopReady.last (h : LoopReady alarm b [] hs more rest s) (ht : PassFinds alarm b more s t) :
    t.ld = ldLast := by
  refine ht.last.eq_ldLast fun x hx hbx => ?_
  rcases h.others x hx with hx | hxb
  · rw [List.mem_singleton.1 hx] at hbx
    exact not_before_self b hbx
  · exact not_before_self b (hbx.trans hxb)

end

/-- The search loop finds what it is ready to find. -/
theorem run_searchLoop {alarm : Bool} {b : Acc} {bs : List Acc} {hs : List HostInput} {more : List Answer}
    {rest : List HostInput} {k : List UOp} {s : State} (h : LoopReady alarm b bs hs more rest s) :
    ∃ t, run (s.goto (.passReset (searchCommand s.params alarm) (some .emit) :: k)) = run (t.goto k) ∧
      LoopFinds (b :: bs) more rest s t := by
  induction bs generalizing b hs s with
  | nil =>
    obtain ⟨a, hs, t, rfl, ht, hrun⟩ := h.round k
    obtain rfl : hs = [] := List.length_eq_zero_iff.1 (by simpa using h.enough)
    have hlast := h.last ht
    rw [if_pos hlast] at hrun
    obtain ⟨houtput, hcount⟩ := ht.delivered h.count rest
    exact ⟨_, hrun, houtput, hlast, congrArg some ht.acc.symm, rfl, hcount, ht.answers, rfl⟩
  | cons b' bs ih =>
    obtain ⟨a, hs, t, rfl, ht, hrun⟩ := h.round k
    obtain ⟨hld, hready⟩ := h.next ht
    rw [if_neg hld] at hrun
    obtain ⟨⟨l, hl, hfound⟩, hcount⟩ := ht.delivered h.count (hs ++ rest)
    obtain ⟨u, hrun', ⟨l', hl', hfound'⟩, hlast, hacc, hid, hcount', hans, hhost⟩ := ih hready
    rw [State.delivered_params, ht.frame.params] at hrun'
    refine ⟨u, hrun.trans hrun', ⟨l' ++ l, ?_, ?_⟩, hlast, hacc, hid, ?_, hans, hhost⟩
    · rw [Gained, hl', hl, List.append_assoc]
    · rw [foundIn_append, hfound, hfound']
      rfl
    · simp only [hcount', hcount, List.length_cons]
      omega

/-! ### SEARCH_ALL on the reference bus -/

/-- The bracket puts no found event in the output. -/
theorem Gained.bracketed {s t : State} {l : List Event} {e : Err} (h : Gained (fresh (opened s)) t l) :
    ∃ l', Gained s (closed t e) l' ∧ foundIn l' = foundIn l := by
  have h : t.log = l ++ .lock :: s.log := h
  refine ⟨.unlock :: (l ++ [.lock]), ?_, by simp [foundIn]⟩
  rw [Gained, List.cons_append, List.append_assoc]
  exact congrArg (Event.unlock :: ·) h

section
variable {s : State} {alarm : Bool} {fam : Byte} {more : List Answer}
  (hcmd : alarm = true → s.params.cmdAlarmSearch ≠ s.params.cmdSearchRom) (hl : s.lockFree = true)
include hcmd hl

/-- With identifiers that take part, in the order of discovery. -/
theorem exec_searchAll_finds {b : Acc} {bs : List Acc} {hs rest : List HostInput}
    (hsorted : (b :: bs).Pairwise Before) (hmem : ∀ x, x ∈ contenders alarm s.bus.devices ↔ x ∈ b :: bs)
    (hlen : bs.length + 1 < 2 ^ 32) (hans : s.bus.answers = List.replicate (194 * (bs.length + 1)) .wire ++ more)
    (hhost : s.host = hs ++ rest) (henough : hs.length = bs.length + 1) (htakes : ∀ a ∈ hs, takesEvent a = true) :
    ∃ t l, exec (.searchAll alarm fam) s = .next t ∧ Gained s t l ∧ foundIn l = (b :: bs).map idOf ∧
      t.status.busy = false ∧ t.status.err = .ok ∧ t.ld = 65 ∧ (b :: bs).getLast? = some t.acc ∧
      t.id = idOf t.acc ∧ t.count.toNat = bs.length + 1 ∧ t.bus.answers = more ∧ t.host = rest := by
  have hfirst : ∀ x ∈ contenders alarm s.bus.devices, x = b ∨ Before b x := fun x hx =>
    (List.mem_cons.1 ((hmem x).1 hx)).imp_right ((List.pairwise_cons.1 hsorted).1 x)
  have hready : LoopReady alarm b bs hs more rest (fresh (opened s)) :=
    ⟨hcmd, hsorted, fun x hx => (hmem x).2 hx, fun x hx => .inl ((hmem x).1 hx), leadsTo_first hfirst,
      by simpa [fresh] using hlen, hans, hhost, henough, htakes⟩
  obtain ⟨t, hrun, ⟨l, hl', hfound⟩, hld, hacc, hid, hcount, hmore, hrest⟩ :=
    run_searchLoop (k := [.unlock, .finish .ok]) hready
  obtain ⟨l', hgained, hfound'⟩ := Gained.bracketed (e := .ok) hl'
  exact ⟨_, l', (exec_searchAll_opened hl).trans (hrun.trans (run_unlock_finish _ _ _)), hgained,
    hfound'.trans hfound, rfl, rfl, hld, hacc, hid, hcount.trans (Nat.zero_add _), hmore, hrest⟩

/-- With devices present and none taking part. -/
theorem exec_searchAll_none (hnone : contenders alarm s.bus.devices = []) (hne : s.bus.devices ≠ [])
    (hans : s.bus.answers = List.replicate 4 .wire ++ more) :
    ∃ t l, exec (.searchAll alarm fam) s = .next t ∧ Gained s t l ∧ foundIn l = [] ∧ t.status.busy = false ∧
      t.status.err = .ok ∧ t.ld = 66 ∧ t.acc = 0 ∧ t.id = s.id ∧ t.count = 0 ∧ t.bus.answers = more ∧
      t.host = s.host := by
  obtain ⟨t, hrun, ⟨ld, acc, bus, l, rfl, -, hcalls⟩, rfl, rfl, hmore⟩ :=
    run_pass_none (s := fresh (opened s)) (after := some .emit) (k := [.unlock, .finish .ok]) hcmd hnone hne hans
  obtain ⟨l', hgained, hfound⟩ := Gained.bracketed (s := s) (l := l) (e := .ok)
    (t := { fresh (opened s) with ld := ldNone, bus := bus, log := l ++ (fresh (opened s)).log }) rfl
  exact ⟨_, l', (exec_searchAll_opened hl).trans (hrun.trans ((run_afterPass_none _ _ _ rfl).trans
    (run_unlock_finish _ _ _))), hgained, hfound.trans (foundIn_of_isCall hcalls), rfl, rfl, rfl, rfl, rfl, rfl,
    hmore, rfl⟩

end

/-- Settles O43: the one contender is found by the one pass; without it the pass ends at its first pair. -/
theorem singleDeviceShortcut : Obligations.SingleDeviceShortcut := by
  intro s alarm fam d more hl hdev hcmd
  refine ⟨fun v rest hpart hans hhost hv => ?_, fun halarm hd hans => ?_⟩
  · have hmem : contenders alarm s.bus.devices = [d.rom] := by
      rcases hpart with rfl | hd <;> simp [contenders, takesPart, *]
    obtain ⟨t, l, hexec, hgained, hfound, hbusy, herr, hld, hacc, hid, hcount, hmore, hrest⟩ :=
      exec_searchAll_finds (fam := fam) (b := d.rom) (bs := []) (hs := [.write 0x2C v]) hcmd hl
        (List.pairwise_singleton _ _) (by simp [hmem]) (by decide) hans hhost rfl (by simp [takesEvent, hv])
    have hacc : d.rom = t.acc := Option.some.inj hacc
    exact ⟨t, l, hexec, hgained, hfound, hbusy, herr, BitVec.eq_of_toNat_eq hcount, hld, hacc.symm,
      by rw [hid, hacc], hmore, hrest⟩
  · have hnone : contenders alarm s.bus.devices = [] := by simp [hdev, contenders, takesPart, halarm, hd]
    obtain ⟨t, l, hexec, hgained, hfound, hbusy, herr, hld, hacc, hid, hcount, hmore, hrest⟩ :=
      exec_searchAll_none (fam := fam) hcmd hl hnone (by simp [hdev]) hans
    exact ⟨t, l, hexec, hgained, hfound, hbusy, herr, hcount, hld, hacc, hid, hmore, hrest⟩

/-- Finalized identifiers are in the order of discovery iff their accumulators are. -/
theorem foundBefore_idOf {a b : Acc} (h : Before a b) : foundBefore (idOf a) (idOf b) := by
  unfold foundBefore
  rw [accOf_idOf, accOf_idOf]
  exact h

/-- Settles O45: the identifiers that take part, put in the order of discovery, are what the loop is ready to find. -/
theorem enumerationCompleteness : Obligations.EnumerationCompleteness := by
  intro s alarm fam more rest hl hcmd ds
  have hds : contenders alarm s.bus.devices = ds.map fun d => d.rom := rfl
  refine ⟨fun hne hnodup hlen hans hhost => ?_, fun hnil hne hans => ?_⟩
  · obtain ⟨_ | ⟨b, bs⟩, hperm, hsorted⟩ := exists_sorted hnodup
    · exact absurd (List.map_eq_nil_iff.1 hperm.nil_eq.symm) hne
    have hlength : ds.length = bs.length + 1 := by simpa using hperm.length_eq.symm
    rw [hlength] at hlen hans hhost ⊢
    obtain ⟨t, l, hexec, hgained, hfound, hbusy, herr, hld, -, -, hcount, hmore, hrest⟩ :=
      exec_searchAll_finds (fam := fam) hcmd hl hsorted (fun x => hds ▸ hperm.symm.mem_iff) hlen hans hhost
        List.length_replicate (fun a ha => by rw [List.eq_of_mem_replicate ha]; rfl)
    refine ⟨t, l, hexec, hgained, ?_, ?_, hbusy, herr, hld, hcount, hmore, hrest⟩
    · rw [hfound]
      exact (hperm.map idOf).trans (.of_eq (List.map_map))
    · rw [hfound]
      exact List.pairwise_map.2 (hsorted.imp foundBefore_idOf)
  · obtain ⟨t, l, hexec, hgained, hfound, hbusy, herr, hld, -, -, hcount, hmore, hrest⟩ :=
      exec_searchAll_none (fam := fam) hcmd hl (by rw [hds, hnil]; rfl) hne hans
    exact ⟨t, l, hexec, hgained, hfound, hbusy, herr, hld, hcount, hmore, hrest⟩

end Sys2Proof.Machine
end

section
/-! PROOFS. The statements of spec/30_encoding.md: the identifier and its accumulator (R100, R101), the command word
(R104, R105), and the words that are illegal (R107). -/

namespace Sys2Proof

/-! ### The command word and its fields (R104) -/

/-- One bit of a word is the part of it of length 1. -/
theorem ofBool_getLsbD (w : Word) (n : Nat) : BitVec.ofBool (w.getLsbD n) = w.extractLsb' n 1 :=
  BitVec.eq_of_getLsbD_eq fun i hi => by simp [show i = 0 by omega]

/-- A word is put together from the fields cut from it: no bit of it is left out. -/
theorem CmdFields.toWord_ofWord (w : Word) : (CmdFields.ofWord w).toWord = w := by
  simp (disch := decide) only [CmdFields.toWord, CmdFields.ofWord, ofBool_getLsbD,
    BitVec.extractLsb'_append_extractLsb'_eq_extractLsb']
  exact BitVec.extractLsb'_eq_self

/-! ### Which fields are legal (R107) -/

theorem not_opDefined_iff {op : BitVec 4} : ¬opDefined op = true ↔ op.toNat = 0 ∨ 12 ≤ op.toNat := by
  simp only [opDefined, Bool.and_eq_true, decide_eq_true_eq]
  omega

theorem opSearches_iff {op : BitVec 4} : opSearches op = true ↔ op.toNat = 1 ∨ op.toNat = 2 ∨ op.toNat = 11 := by
  simp [opSearches, ← BitVec.toNat_inj, or_assoc]

theorem opResponds_iff {op : BitVec 4} : opResponds op = true ↔ op.toNat = 8 := by
  simp [opResponds, ← BitVec.toNat_inj]

/-- The fields are legal iff they pass every check of R107. -/
theorem CmdFields.illegal_eq_none_iff {f : CmdFields} :
    f.illegal = none ↔
      opDefined f.op = true ∧ f.reserved = 0 ∧ (f.a = true → opSearches f.op = true) ∧
        (f.r = true → opResponds f.op = true) ∧ (f.fam ≠ 0 → opSearches f.op = true) ∧ f.high = 0 := by
  unfold CmdFields.illegal
  split_ifs <;> simp_all

/-- A word breaks R107 iff its fields fail a check. -/
theorem breaksR107_iff {w : Word} : BreaksR107 w ↔ (CmdFields.ofWord w).illegal ≠ none := by
  rw [Ne, CmdFields.illegal_eq_none_iff, opSearches_iff, opResponds_iff]
  simp only [not_and_or, Classical.not_imp, not_opDefined_iff, not_or]
  rfl

/-! ### Fields and operations (R105) -/

/-- Every operation's command word is legal and names it. -/
theorem Instr.legalWord (i : Instr) : Laws.LegalWord.Statement i := by
  cases i with
  | searchPass alarm fam => exact Laws.LegalWord.searchPass alarm fam
  | searchAll alarm fam => exact Laws.LegalWord.searchAll alarm fam
  | readId => exact Laws.LegalWord.readId
  | matchId => exact Laws.LegalWord.matchId
  | skip => exact Laws.LegalWord.skip
  | resume => exact Laws.LegalWord.resume
  | resetSelect => exact Laws.LegalWord.resetSelect
  | writeRead resp => exact Laws.LegalWord.writeRead resp
  | acquire => exact Laws.LegalWord.acquire
  | release => exact Laws.LegalWord.release
  | scan alarm fam => exact Laws.LegalWord.scan alarm fam

/-- Legal fields that name an operation are its fields: the checks leave 0 what the operation of
each code does not use. -/
theorem CmdFields.fields_of_instr {f : CmdFields} {i : Instr} (hl : f.illegal = none) (hi : f.instr = some i) :
    i.fields = f := by
  obtain ⟨op, a, r, reserved, fam, high⟩ := f
  obtain ⟨-, hreserved, ha, hr, hfam, hhigh⟩ := CmdFields.illegal_eq_none_iff.1 hl
  unfold CmdFields.instr at hi
  split at hi <;> cases hi
  all_goals
    next hop =>
    have hcode : op = BitVec.ofNat 4 op.toNat := by simp
    rw [hop] at hcode
    subst hcode
    simp_all [Instr.fields, opSearches, opResponds]

/-! ### The decoder -/

/-- A word decodes to an operation iff its fields are legal and name it. -/
theorem decode_eq_ok_iff {w : Word} {i : Instr} :
    decode w = .ok i ↔ (CmdFields.ofWord w).illegal = none ∧ (CmdFields.ofWord w).instr = some i := by
  unfold decode
  rcases hl : (CmdFields.ofWord w).illegal with _ | why
  · rcases hi : (CmdFields.ofWord w).instr with _ | j <;> simp [hl, hi]
  · simp [hl]

/-- A word with illegal fields is rejected for the clause they break. -/
theorem decode_of_illegal {w : Word} {why : Illegal} (h : (CmdFields.ofWord w).illegal = some why) :
    decode w = .error why := by
  simp [decode, h]

/-- A word with legal fields decodes to an operation. -/
theorem exists_decode_of_legal {w : Word} (h : (CmdFields.ofWord w).illegal = none) : ∃ i, decode w = .ok i := by
  obtain ⟨i, hi⟩ := Option.isSome_iff_exists.1 (CmdFields.instr_of_legal h)
  exact ⟨i, decode_eq_ok_iff.2 ⟨h, hi⟩⟩

/-- Settles O1: the fields cut from the command word are those it was put together from, and they name the operation. -/
theorem decodeOfEncodeGivesTheOperationBack : Obligations.DecodeOfEncodeGivesTheOperationBack := by
  intro i
  obtain ⟨hl, hi⟩ := i.legalWord
  refine ⟨Option.isNone_iff_eq_none.2 hl, decode_eq_ok_iff.2 ?_⟩
  rw [encode, CmdFields.ofWord_toWord]
  exact ⟨hl, hi⟩

/-- Settles O2: the operation has the fields cut from the word, and these put together are the word. -/
theorem encodeOfDecodeGivesTheWordBack : Obligations.EncodeOfDecodeGivesTheWordBack := by
  intro w i h
  obtain ⟨hl, hi⟩ := decode_eq_ok_iff.1 h
  rw [encode, CmdFields.fields_of_instr hl hi, CmdFields.toWord_ofWord]

/-- Settles O4: the decoder run on each word. -/
theorem writtenOutCommandWordsDecode : Obligations.WrittenOutCommandWordsDecode :=
  ⟨rfl, rfl, rfl, rfl, rfl, rfl, rfl, rfl, rfl, rfl, rfl, rfl, rfl, rfl, rfl, rfl, rfl, rfl, rfl⟩

end Sys2Proof

namespace Sys2Proof.Machine

/-- A write to `CMD` of a word that does not decode, while no operation is in flight. -/
theorem step_illegalCommand {s : State} {w : Word} {rest : List HostInput} {why : Illegal}
    (hb : s.status.busy = false) (hh : s.host = .write cmdOffset w :: rest) (hd : decode w = .error why) :
    step s = .next ({ s with host := rest }.reject .misuse) := by
  rw [step_idle hb hh, hostIdle, if_pos rfl, command, hd]

/-- Settles O3: the fields of a word that breaks R107 are illegal, so the port rejects it; other fields name an
operation. -/
theorem illegalCommandWordIsMisuse : Obligations.IllegalCommandWordIsMisuse := by
  intro s w rest hb hh
  refine ⟨fun h => ?_, fun h => exists_decode_of_legal (not_not.1 (mt breaksR107_iff.2 h))⟩
  obtain ⟨why, hwhy⟩ := Option.ne_none_iff_exists'.1 (breaksR107_iff.1 h)
  exact step_illegalCommand hb hh (decode_of_illegal hwhy)

/-! ### The identifier and its accumulator (R100, R101) -/

/-- The identifier with its eight bytes in reverse order. -/
def Identifier.reversed (i : Identifier) : Identifier :=
  ⟨i.checksum, i.serial6, i.serial5, i.serial4, i.serial3, i.serial2, i.serial1, i.family⟩

theorem Identifier.reversed_toList (i : Identifier) : i.reversed.toList = i.toList.reverse := rfl

theorem beOf_eq_accOf_reversed (i : Identifier) : beOf i = accOf i.reversed := rfl

/-- Byte `j` of an identifier is its accumulator from bit `8j` up. -/
theorem toList_getElem? (i : Identifier) {j : Nat} (hj : j < 8) :
    i.toList[j]? = some ((accOf i).extractLsb' (8 * j) 8) := by
  rw [toList_eq_map_extract, List.getElem?_map, List.getElem?_range hj]
  rfl

/-- The big-endian number of an identifier is its accumulator with the bytes in reverse order. -/
theorem beOf_extract (i : Identifier) {j : Nat} (hj : j < 8) :
    (beOf i).extractLsb' (8 * (7 - j)) 8 = (accOf i).extractLsb' (8 * j) 8 := by
  apply Option.some.inj
  have hlen : i.toList.length = 8 := rfl
  rw [beOf_eq_accOf_reversed, ← toList_getElem? _ (by omega), ← toList_getElem? _ hj, Identifier.reversed_toList,
    List.getElem?_reverse (by omega), hlen, show 8 - 1 - (7 - j) = j by omega]

/-- Settles O5: the bytes of an identifier are cut from its accumulator, and in reverse order from its number. -/
theorem identifierAndAccumulatorRoundTrip : Obligations.IdentifierAndAccumulatorRoundTrip := by
  refine ⟨fun a j hj => ?_, idOf_accOf, accOf_idOf, fun i _ => beOf_extract i, fun _ => rfl⟩
  rw [toList_getElem? _ hj, accOf_idOf]

end Sys2Proof.Machine
end

section
/-! PROOFS. The statements of spec/40_rom_search.md: what a pair decides (R132, R133); SEARCH_PASS and SEARCH_ALL
against their pseudocode (R130, R131, R136); what a pass leaves behind and how many calls it makes (R135, R270); the
family filter (R138); and a search that does not end (R270). -/

namespace Sys2Proof.Machine

open Sys2Proof.Reference

/-! ### What a pair decides (R132, R133) -/

/-- The choice at a position is the pair's own where it differs, and else the table of R132. -/
theorem passChoice_eq_tieBreak (ld : Discrepancy) (acc : Acc) (pos : Nat) (next : Discrepancy) (b c : Bool) :
    passChoice ld acc pos next b c = if b ≠ c then (b, next) else tieBreak ld acc pos next := by
  unfold passChoice tieBreak
  rcases lt_trichotomy pos ld.toNat with hlt | rfl | hlt
  · simp [takesOne_below hlt, accBit, hlt.ne, hlt.not_gt]
  · simp [takesOne_at]
  · simp [takesOne_above hlt, hlt]

section
variable {s s' : State} {r : Reply} {k : List UOp} {pos : Nat} {next : Discrepancy} {b : Bool}

/-- The second read of a position: `(1, 1)` ends the pass, and any other pair makes a choice. -/
theorem transact_passComplement (hs : s.seq = .passComplement pos next b :: k)
    (h : s.ask .readBit = some (r, s')) (hr : r ≠ .fail) :
    transact s = .moved (s'.goto (if b && r.flag then .set (.cursor ldNone) :: k
      else .passWrite pos (passChoice s.ld s.acc pos next b r.flag).2
        (passChoice s.ld s.acc pos next b r.flag).1 :: k)) := by
  simp only [transact, hs, stepPassComplement, State.askOr_reply h hr, passChoice, State.ask_ld h, State.ask_acc h]
  repeat' split
  all_goals rfl

/-- Settles O35: the choice of `passChoice`, row by row. -/
theorem pairDecidesTheDirection : Obligations.PairDecidesTheDirection := by
  intro s s' k pos next b c hs hask
  have hstep := transact_passComplement hs hask nofun
  rw [Reply.flag_bit] at hstep
  have row {d : Bool} {next' : Discrepancy} (hbc : (b && c) = false)
      (hchoice : passChoice s.ld s.acc pos next b c = (d, next')) :
      transact s = .moved { s' with seq := .passWrite pos next' d :: k } := by
    rw [hstep, hbc, hchoice]
    rfl
  refine ⟨?_, ?_, ?_, ?_, ?_, ?_, ?_⟩
  · rintro rfl rfl
    exact ⟨hstep, rfl⟩
  · rintro rfl rfl
    exact row rfl rfl
  · rintro rfl rfl
    exact row rfl rfl
  · rintro rfl rfl hlt
    exact row rfl (by simp [passChoice, takesOne_above hlt])
  · rintro rfl rfl hlt hbit
    exact row rfl (by simp [passChoice, takesOne_below hlt, accBit, hbit])
  · rintro rfl rfl hlt hbit
    exact row rfl (by simp [passChoice, takesOne_below hlt, accBit, hbit])
  · rintro rfl rfl rfl
    exact row rfl (by simp [passChoice, takesOne_at])

/-- Running on from the second read of a position. -/
theorem run_passComplement_choice (h : s.ask .readBit = some (r, s')) (hr : r ≠ .fail) :
    run (s.goto (.passComplement pos next b :: k)) =
      if b = true ∧ r.flag = true then run ({ s' with ld := ldNone }.goto k)
      else run (s'.goto (.passWrite pos (passChoice s'.ld s'.acc pos next b r.flag).2
        (passChoice s'.ld s'.acc pos next b r.flag).1 :: k)) := by
  rw [run_passComplement h hr, passChoice]
  simp only [Bool.and_eq_true]
  repeat' split
  all_goals rfl

end

/-! ### The sequencer against a routine of the pseudocode -/

/-- The outcome `o` of running on is what a routine comes to, `k` being what follows the routine: from the state it
returns the run goes on with `k`; from the state at its failed call with what a raise leaves of `k`; and where the
routine waits, so does the operation. -/
def EndsAs (o : Host.Outcome State Fault Refusal) (k : List UOp) : Ending → Prop
  | .returned t => o = run (t.goto k)
  | .failed t => o = run (t.goto (unwind .busIoFailure k))
  | .unfinished => ∃ u, o = .next u ∧ u.seq ≠ []

/-- An entry that makes a guarded call, against a routine that begins with the call. -/
theorem EndsAs.calling {s : State} {u : UOp} {j k : List UOp} {c : Call} {go : Reply → State → Progress}
    {go' : Reply → State → Ending}
    (hstep : transact (s.goto (u :: j)) = (s.goto (u :: j)).askOr c j go)
    (hraise : unwind .busIoFailure j = unwind .busIoFailure k)
    (hgo : ∀ r s', s.ask c = some (r, s') → r ≠ .fail → EndsAs (run (s.goto (u :: j))) k (go' r s')) :
    EndsAs (run (s.goto (u :: j))) k (calling s c go') := by
  rcases calling_cases s c go' with ⟨hask, hcall⟩ | ⟨s', hask, hcall⟩ | ⟨r, s', hr, hask, hcall⟩ <;>
    rw [hcall]
  · exact ⟨_, run_waiting (hstep.trans (State.askOr_goto_none _ _ hask)), List.cons_ne_nil u j⟩
  · exact (run_moved (hstep.trans (State.askOr_goto_fail _ _ hask))).trans (by rw [hraise])
  · exact hgo r s' hask hr

/-! ### The pass (R131) -/

/-- One round of the loop over the positions, its choice written with `passChoice`. -/
theorem positions_succ (n : Nat) (next : Discrepancy) (s : State) :
    positions (n + 1) next s =
      calling s .readBit fun b s => calling s .readBit fun c s =>
        if b.flag = true ∧ c.flag = true then .returned { s with ld := ldNone }
        else calling s (.writeBit (passChoice s.ld s.acc (64 - n) next b.flag c.flag).1) fun _ t =>
          positions n (passChoice s.ld s.acc (64 - n) next b.flag c.flag).2
            { t with acc := setAccBit t.acc (64 - n) (passChoice s.ld s.acc (64 - n) next b.flag c.flag).1 } := by
  simp only [passChoice_eq_tieBreak]
  rfl

section
variable {k : List UOp}

/-- One position, against one round of the loop. -/
theorem endsAs_position {n : Nat} (next : Discrepancy) (s : State)
    (hgo : ∀ next t, EndsAs (if 64 - n < lastPosition then run (t.goto (.passTrue (64 - n + 1) next :: k))
      else run ({ t with ld := next }.goto k)) k (positions n next t)) :
    EndsAs (run (s.goto (.passTrue (64 - n) next :: k))) k (positions (n + 1) next s) := by
  rw [positions_succ]
  refine EndsAs.calling rfl rfl fun b s₁ h₁ hb => ?_
  rw [run_passTrue h₁ hb]
  refine EndsAs.calling rfl rfl fun c s₂ h₂ hc => ?_
  rw [run_passComplement_choice h₂ hc]
  split
  · rfl
  · refine EndsAs.calling rfl rfl fun r s₃ h₃ hr => ?_
    rw [run_passWrite h₃ hr]
    exact hgo _ { s₃ with acc := setAccBit s₃.acc (64 - n) _ }

theorem endsAs_positions {n : Nat} (hn : n < 64) (next : Discrepancy) (s : State) :
    EndsAs (run (s.goto (.passTrue (64 - n) next :: k))) k (positions (n + 1) next s) := by
  induction n generalizing next s with
  | zero => exact endsAs_position next s fun next t => rfl
  | succ n ih =>
    refine endsAs_position next s fun next t => ?_
    have hlt : 64 - (n + 1) < lastPosition := by simp only [lastPosition]; omega
    rw [if_pos hlt, show 64 - (n + 1) + 1 = 64 - n by omega]
    exact ih (by omega) next t

/-- What the search loop does after a pass is no cleanup. -/
theorem unwind_afterReset (e : Err) (scmd : Byte) (after : Option SearchMode) :
    unwind e (afterReset scmd after k) = unwind e k := by cases after <;> rfl

/-- The sequencer's pass is that of the pseudocode. -/
theorem endsAs_onePass (scmd : Byte) (after : Option SearchMode) (s : State) :
    EndsAs (run (s.goto (.passReset scmd after :: k))) (afterReset scmd after k) (onePass scmd s) := by
  refine EndsAs.calling rfl (unwind_afterReset _ scmd after).symm fun p s₁ h₁ hp => ?_
  rw [run_passReset h₁ hp]
  cases p.flag
  · rfl
  · refine EndsAs.calling rfl rfl fun r s₂ h₂ hr => ?_
    rw [run_passCommand h₂ hr]
    exact endsAs_positions (by decide) ldLast s₂

end

theorem exec_searchPass_endsAs {s : State} {alarm : Bool} {fam : Byte} (hld : s.ld.toNat ≤ 64)
    (hl : s.lockFree = true) :
    EndsAs (exec (.searchPass alarm fam) s) [.unlock, .finish .ok]
      (onePass (searchCommand s.params alarm) (opened s)) := by
  rw [exec_searchPass_opened hld hl]
  exact endsAs_onePass _ none _

/-- A cursor that is no position and not `Init` (R130). -/
theorem exec_searchPass_misuse {s : State} {alarm : Bool} {fam : Byte} (hld : 64 < s.ld.toNat) :
    exec (.searchPass alarm fam) s = .next (s.reject .misuse) :=
  if_neg fun h => absurd (of_decide_eq_true h) (Nat.not_le.2 hld)

/-- Settles O34: the pass against the pseudocode, then the closing of its bracket. -/
theorem searchPassFollowsItsPseudocode : Obligations.SearchPassFollowsItsPseudocode := by
  intro s alarm fam
  refine ⟨fun hld hl => ?_, exec_searchPass_misuse⟩
  have hends := exec_searchPass_endsAs (alarm := alarm) (fam := fam) hld hl
  refine ⟨fun t ht => ?_, fun t ht => ?_⟩ <;>
    rw [show onePass (searchCommand s.params alarm) (opened s) = _ from ht] at hends
  · exact hends.trans (run_unlock_finish t .ok [])
  · exact hends.trans (run_unlock_finish t .busIoFailure [])

/-! ### How many calls a pass makes (R270, R274) -/

theorem State.ask_calls {s s' : State} {c : Call} {r : Reply} (h : s.ask c = some (r, s')) :
    s'.bus.calls = s.bus.calls + 1 := by
  obtain ⟨b, hb, rfl⟩ := State.ask_some h
  obtain ⟨-, -, -, -, -, hcalls, -⟩ := Transport.call_some hb
  exact hcalls

/-- A routine that began in `s` makes at most `n` calls, and waits only where fewer than `n` answers were to come. -/
def WithinCalls (n : Nat) (s : State) : Ending → Prop
  | .returned t | .failed t => t.bus.calls ≤ s.bus.calls + n
  | .unfinished => s.bus.answers.length < n

theorem WithinCalls.calling {n : Nat} {s : State} {c : Call} {go : Reply → State → Ending}
    (hgo : ∀ r s', WithinCalls n s' (go r s')) : WithinCalls (n + 1) s (calling s c go) := by
  rcases calling_cases s c go with ⟨hask, hcall⟩ | ⟨s', hask, hcall⟩ | ⟨r, s', -, hask, hcall⟩ <;> rw [hcall]
  · simp [WithinCalls, State.ask_eq_none.1 hask]
  · simp only [WithinCalls, State.ask_calls hask]
    omega
  · have hrest := hgo r s'
    have hcalls := State.ask_calls hask
    have hanswers := State.ask_answers hask
    cases hgo' : go r s' <;> rw [hgo'] at hrest <;> simp only [WithinCalls] at hrest ⊢ <;> omega

theorem positions_withinCalls (n : Nat) (next : Discrepancy) (s : State) :
    WithinCalls (3 * n) s (positions n next s) := by
  induction n generalizing next s with
  | zero => exact le_rfl
  | succ n ih =>
    rw [positions_succ]
    refine WithinCalls.calling fun b s₁ => WithinCalls.calling fun c s₂ => ?_
    split
    · exact Nat.le_add_right _ _
    · exact WithinCalls.calling fun _ s₃ => ih _ { s₃ with acc := _ }

theorem onePass_withinCalls (scmd : Byte) (s : State) : WithinCalls 194 s (onePass scmd s) := by
  refine WithinCalls.calling fun p s₁ => ?_
  split
  · exact Nat.le_add_right _ _
  · exact WithinCalls.calling fun _ s₂ => positions_withinCalls 64 ldLast s₂

/-- Settles O37: the pass does not wait for an answer, so it returns or fails. -/
theorem passAlwaysTerminates : Obligations.PassAlwaysTerminates := by
  intro s alarm fam hl hanswers
  by_cases hld : s.ld.toNat ≤ 64
  · have hends := exec_searchPass_endsAs (alarm := alarm) (fam := fam) hld hl
    have hcalls := onePass_withinCalls (searchCommand s.params alarm) (opened s)
    cases hpass : onePass (searchCommand s.params alarm) (opened s) <;> rw [hpass] at hends hcalls
    case returned t => exact ⟨_, hends.trans (run_unlock_finish t .ok []), rfl, rfl, hcalls⟩
    case failed t => exact ⟨_, hends.trans (run_unlock_finish t .busIoFailure []), rfl, rfl, hcalls⟩
    case unfinished => exact absurd hanswers (Nat.not_le.2 hcalls)
  · exact ⟨_, exec_searchPass_misuse (Nat.not_le.1 hld), rfl, rfl, Nat.le_add_right _ _⟩

/-! ### What a pass leaves behind (R135) -/

theorem calling_eq_returned {s t : State} {c : Call} {go : Reply → State → Ending}
    (h : calling s c go = .returned t) : ∃ r s', s.ask c = some (r, s') ∧ go r s' = .returned t := by
  rcases calling_cases s c go with ⟨-, hcall⟩ | ⟨s', -, hcall⟩ | ⟨r, s', -, hask, hcall⟩ <;> rw [hcall] at h
  · cases h
  · cases h
  · exact ⟨r, s', hask, h⟩

/-- `next` after the positions below `pos`: `LD_LAST`, or one of them at which the pass chose a 1. -/
def Remembered (pos : Nat) (next : Discrepancy) (acc : Acc) : Prop :=
  next = ldLast ∨ (1 ≤ next.toNat ∧ next.toNat < pos ∧ accBit acc next.toNat = true)

/-- A position keeps what is remembered, or is itself remembered, with its 1. -/
theorem Remembered.choice {pos : Nat} {ld next : Discrepancy} {acc : Acc} (b c : Bool)
    (h : Remembered pos next acc) (h1 : 1 ≤ pos) (hpos : pos ≤ 64) :
    Remembered (pos + 1) (passChoice ld acc pos next b c).2
      (setAccBit acc pos (passChoice ld acc pos next b c).1) := by
  have kept (d : Bool) : Remembered (pos + 1) next (setAccBit acc pos d) := by
    rcases h with hlast | ⟨hn1, hlt, hbit⟩
    · exact .inl hlast
    · refine .inr ⟨hn1, by omega, ?_⟩
      rw [accBit_setAccBit acc d h1 hpos hn1, if_neg hlt.ne, hbit]
  unfold passChoice
  split
  · exact kept b
  · split
    · have hnat : (BitVec.ofNat 7 pos).toNat = pos := by simp; omega
      rw [Remembered, hnat]
      refine .inr ⟨h1, by omega, ?_⟩
      rw [accBit_setAccBit acc true h1 hpos h1, if_pos rfl]
    · exact kept false

/-- A pass that returned read `(1, 1)`, or went through all its positions. -/
theorem positions_returned {n : Nat} {next : Discrepancy} {s t : State} (hn : n ≤ 64)
    (h : positions n next s = .returned t) (hnext : Remembered (65 - n) next s.acc) :
    t.ld = ldNone ∨ (Remembered 65 t.ld t.acc ∧ t.bus.calls = s.bus.calls + 3 * n) := by
  induction n generalizing next s with
  | zero =>
    cases h
    exact .inr ⟨hnext, rfl⟩
  | succ n ih =>
    rw [positions_succ] at h
    obtain ⟨b, s₁, h₁, h⟩ := calling_eq_returned h
    obtain ⟨c, s₂, h₂, h⟩ := calling_eq_returned h
    split at h
    · cases h
      exact .inl rfl
    obtain ⟨r, s₃, h₃, h⟩ := calling_eq_returned h
    have hacc₂ : s₂.acc = s.acc := (State.ask_acc h₂).trans (State.ask_acc h₁)
    have hcalls : s₃.bus.calls = s.bus.calls + 3 := by
      rw [State.ask_calls h₃, State.ask_calls h₂, State.ask_calls h₁]
    have hpos : 65 - n = 64 - n + 1 := by omega
    rw [show 65 - (n + 1) = 64 - n by omega, ← hacc₂] at hnext
    refine (ih (by omega) h ?_).imp_right fun ⟨hremembered, hrest⟩ => ⟨hremembered, ?_⟩
    · rw [hpos]
      simp only [State.ask_acc h₃]
      exact hnext.choice b.flag c.flag (by omega) (by omega)
    · simp only [hcalls] at hrest
      omega

theorem onePass_returned {scmd : Byte} {s t : State} (h : onePass scmd s = .returned t) :
    t.ld = ldNone ∨ (Remembered 65 t.ld t.acc ∧ t.bus.calls = s.bus.calls + 194) := by
  obtain ⟨p, s₁, h₁, h⟩ := calling_eq_returned h
  split at h
  · cases h
    exact .inl rfl
  obtain ⟨r, s₂, h₂, h⟩ := calling_eq_returned h
  refine (positions_returned le_rfl h (.inl rfl)).imp_right fun ⟨hremembered, hcalls⟩ => ⟨hremembered, ?_⟩
  rw [hcalls, State.ask_calls h₂, State.ask_calls h₁]

/-- A SEARCH_PASS that completed `Ok` has run a pass that returned. -/
theorem exec_searchPass_ok {s t : State} {alarm : Bool} {fam : Byte} (hld : s.ld.toNat ≤ 64)
    (h : exec (.searchPass alarm fam) s = .next t) (hbusy : t.status.busy = false) (herr : t.status.err = .ok) :
    ∃ u, onePass (searchCommand s.params alarm) (opened s) = .returned u ∧ t = closed u .ok := by
  have hseq : t.seq = [] := by simpa [hbusy] using (statusWhileInFlight _ s t h).1
  by_cases hl : s.lockFree = true
  · have hends := exec_searchPass_endsAs (alarm := alarm) (fam := fam) hld hl
    cases hpass : onePass (searchCommand s.params alarm) (opened s) <;> rw [hpass] at hends
    case returned u =>
      cases h.symm.trans (hends.trans (run_unlock_finish u .ok []))
      exact ⟨u, rfl, rfl⟩
    case failed u =>
      cases h.symm.trans (hends.trans (run_unlock_finish u .busIoFailure []))
      cases herr
    case unfinished =>
      obtain ⟨u, hu, hne⟩ := hends
      cases h.symm.trans hu
      exact absurd hseq hne
  · have hblocked : exec (.searchPass alarm fam) s = _ :=
      (if_pos (decide_eq_true hld)).trans (run_lock_blocked (s := s.issue []) (Bool.not_eq_true _ ▸ hl))
    cases h.symm.trans hblocked
    cases hseq

/-- Settles O36: what the pass that returned remembers. -/
theorem passResultFacts : Obligations.PassResultFacts := by
  intro s t alarm fam hld h hbusy herr
  obtain ⟨u, hpass, rfl⟩ := exec_searchPass_ok hld h hbusy herr
  rcases onePass_returned hpass with hnone | ⟨hlast | ⟨h1, hlt, hbit⟩, hcalls⟩
  · exact ⟨.inl hnone, fun hne => absurd hnone hne⟩
  · exact ⟨.inr (.inl hlast), fun _ => hcalls⟩
  · exact ⟨.inr (.inr ⟨h1, Nat.le_of_lt_succ hlt, hbit⟩), fun _ => hcalls⟩

/-! ### The search loop (R136, R197) -/

/-- What becomes of an identifier found, in the pseudocode's words. -/
def deliveredIn : SearchMode → State → Option State
  | .emit => emitted
  | .collect => collected

theorem run_emitted {s u : State} {k : List UOp} (h : emitted s = some u) :
    run (s.goto (.emitFound :: k)) = run (u.goto k) := by
  unfold emitted at h
  split at h
  · next a rest hhost =>
    split at h
    · next htakes =>
      cases h
      exact (run_emitFound s k).trans (run_awaitFound (s := s.emitFound) k hhost htakes)
    · cases h
  · cases h

theorem run_collected {s u : State} {k : List UOp} (h : collected s = some u) :
    run (s.goto (.append :: .set .flagQuirk :: k)) = run (u.goto k) := by
  have hkept : exceeds s.params.scanCap (s.scanrec.length + 1) = false ∧ u = collected.kept s := by
    unfold collected at h
    cases hcap : s.params.scanCap with
    | none =>
      rw [hcap] at h
      exact ⟨rfl, (Option.some.inj h).symm⟩
    | some cap =>
      simp only [hcap, Option.ite_none_right_eq_some, Option.some.injEq] at h
      exact ⟨by simpa [exceeds] using h.1, h.2.symm⟩
  obtain ⟨hroom, rfl⟩ := hkept
  rw [run_append _ hroom, run_set]
  rfl

/-- The delivery of an identifier found. -/
theorem run_deliver {mode : SearchMode} {s u : State} {k : List UOp} (h : deliveredIn mode s = some u) :
    run (s.goto (deliver mode ++ k)) = run (u.goto k) := by
  cases mode with
  | emit => exact run_emitted h
  | collect => exact run_collected h

/-- A count that may be raised. -/
theorem ne_allOnes_of_succ_ne {c : BitVec 32} (h : c.toNat + 1 ≠ 2 ^ 32) : c ≠ BitVec.allOnes 32 := by
  rintro rfl
  exact h (by decide)

section
variable {scmd : Byte} {mode : SearchMode} {n : Nat} {s t u : State}

theorem search_failed (hpass : onePass scmd s = .failed t) : search scmd mode (n + 1) s = .failed t := by
  simp only [search, hpass]

theorem search_none (hpass : onePass scmd s = .returned t) (hld : t.ld = ldNone) :
    search scmd mode (n + 1) s = .returned t := by
  simp only [search, hpass, hld, if_true]

/-- A round of the loop that found an identifier and does not wait has counted and delivered it. -/
theorem search_found (hpass : onePass scmd s = .returned t) (hld : t.ld ≠ ldNone)
    (hfinished : search scmd mode (n + 1) s ≠ .unfinished) :
    t.count ≠ BitVec.allOnes 32 ∧
      ∃ u, deliveredIn mode { t with count := t.count + 1, id := idOf t.acc } = some u ∧
        search scmd mode (n + 1) s = if u.ld = ldLast then .returned u else search scmd mode n u := by
  by_cases hcount : t.count.toNat + 1 = 2 ^ 32
  · exact absurd (by simp only [search, hpass, hld, hcount, if_true, if_false]) hfinished
  · have hsearch : search scmd mode (n + 1) s =
        match deliveredIn mode { t with count := t.count + 1, id := idOf t.acc } with
        | none => .unfinished
        | some u => if u.ld = ldLast then .returned u else search scmd mode n u := by
      cases mode <;> simp only [search, hpass, hld, hcount, if_false, deliveredIn] <;> rfl
    refine ⟨ne_allOnes_of_succ_ne hcount, ?_⟩
    rcases hdelivered : deliveredIn mode { t with count := t.count + 1, id := idOf t.acc } with _ | u
    · exact absurd (by rw [hsearch, hdelivered]) hfinished
    · exact ⟨u, rfl, by rw [hsearch, hdelivered]⟩

/-- The sequencer's loop is that of the pseudocode, through any number of passes. -/
theorem endsAs_search {k : List UOp} (hfinished : search scmd mode n s ≠ .unfinished) :
    EndsAs (run (s.goto (.passReset scmd (some mode) :: k))) k (search scmd mode n s) := by
  induction n generalizing s with
  | zero => exact absurd rfl hfinished
  | succ n ih =>
    have hends := endsAs_onePass (k := k) scmd (some mode) s
    cases hpass : onePass scmd s <;> rw [hpass] at hends
    case unfinished => exact absurd (by simp only [search, hpass]) hfinished
    case failed t =>
      rw [search_failed hpass]
      exact hends
    case returned t =>
      by_cases hld : t.ld = ldNone
      · rw [search_none hpass hld]
        exact hends.trans (run_afterPass_none k scmd mode hld)
      · obtain ⟨hcount, u, hdelivered, hsearch⟩ := search_found hpass hld hfinished
        have hrun : run (s.goto (.passReset scmd (some mode) :: k)) =
            run (u.goto (if u.ld = ldLast then k else .passReset scmd (some mode) :: k)) :=
          hends.trans ((run_afterPass_some k scmd mode hld hcount).trans
            ((run_deliver hdelivered).trans (run_loopTest u k scmd mode)))
        rw [hsearch] at hfinished ⊢
        rw [hrun]
        split
        · rfl
        · next hlast =>
          rw [if_neg hlast] at hfinished
          exact ih hfinished

end

/-- Settles O39: the loop against the pseudocode, then the closing of its bracket. -/
theorem searchAllFollowsItsPseudocode : Obligations.SearchAllFollowsItsPseudocode := by
  intro s alarm fam n hl
  have hends (hfinished : search (searchCommand s.params alarm) .emit n (fresh (opened s)) ≠ .unfinished) :=
    (exec_searchAll_opened (alarm := alarm) (fam := fam) hl).symm ▸
      endsAs_search (k := [.unlock, .finish .ok]) hfinished
  refine ⟨fun t ht => ?_, fun t ht => ?_⟩ <;>
    rw [show search (searchCommand s.params alarm) .emit n (fresh (opened s)) = _ from ht] at hends
  · exact (hends nofun).trans (run_unlock_finish t .ok [])
  · exact (hends nofun).trans (run_unlock_finish t .busIoFailure [])

/-- Settles O40: the first pass of the loop returns `NoDevice` after its reset. -/
theorem searchAllOnAnEmptyBus : Obligations.SearchAllOnAnEmptyBus := by
  intro s t alarm fam hl hanswers
  obtain ⟨t, hask, rfl⟩ := answers_cons.1 hanswers
  have hpass (scmd : Byte) : onePass scmd (fresh (opened s)) = .returned { t with ld := ldNone } :=
    calling_reply hask nofun
  have hframe := PassFrame.of_ask hask
  exact ⟨(searchAllFollowsItsPseudocode s alarm fam 1 hl).1 _ (search_none (hpass _) rfl), hframe.count,
    State.ask_acc hask, State.ask_log hask⟩

/-- Settles O41: no operation looks at `FAM`. -/
theorem familyFilterHasNoEffect : Obligations.FamilyFilterHasNoEffect := fun _ _ _ => ⟨rfl, rfl, rfl⟩

/-! ### A search that does not end (R270)

Every pair of a pass is `(1, 0)` but one, which is `(0, 0)`: in turn at position 2 and at position 64. The pass takes
the 1 there, and so leaves that position for the next pass, which meets its choice elsewhere and takes the 1 again. -/

/-- Where the pass number `m` has its choice. -/
def tiePosition (m : Nat) : Nat := if m % 2 = 0 then 2 else 64

theorem tiePosition_bounds (m : Nat) : 1 ≤ tiePosition m ∧ tiePosition m ≤ 64 := by
  unfold tiePosition
  split <;> decide

/-- The bit that answers call number `k`. Of the 194 calls of a pass, the reset is number 0, and the reads of position
`q` are numbers `3q - 1` and `3q`. -/
def endlessBit (k : Nat) : Bool :=
  k % 194 = 0 || (k % 194 % 3 ≠ 0 && k % 194 + 1 ≠ 3 * tiePosition (k / 194))

def endlessAnswer (k : Nat) : Answer := .value [(BitVec.ofBool (endlessBit k)).setWidth 8]

theorem endlessBit_pass (m : Nat) {j : Nat} (hj : j < 194) :
    endlessBit (194 * m + j) = (j = 0 || (j % 3 ≠ 0 && j + 1 ≠ 3 * tiePosition m) : Bool) := by
  have hmod : (194 * m + j) % 194 = j := by omega
  have hdiv : (194 * m + j) / 194 = m := by omega
  rw [endlessBit, hmod, hdiv]

theorem endlessBit_reset (m : Nat) : endlessBit (194 * m) = true := endlessBit_pass m (j := 0) (by decide)

theorem endlessBit_true (m : Nat) {pos : Nat} (h1 : 1 ≤ pos) (hpos : pos ≤ 64) :
    endlessBit (194 * m + (3 * pos - 1)) = decide (pos ≠ tiePosition m) := by
  rw [endlessBit_pass m (by omega), Bool.eq_iff_iff]
  simp
  omega

theorem endlessBit_complement (m : Nat) {pos : Nat} (h1 : 1 ≤ pos) (hpos : pos ≤ 64) :
    endlessBit (194 * m + 3 * pos) = false := by
  rw [endlessBit_pass m (by omega)]
  simp
  omega

/-- The answers to calls number `k` up to `k + n - 1`. -/
def endlessAnswers (k n : Nat) : List Answer := (List.range' k n).map endlessAnswer

theorem ask_endless {s : State} {k n : Nat} (c : Call) (h : s.bus.answers = endlessAnswers k (n + 1)) :
    ∃ s', s.ask c = some (valueReply c [(BitVec.ofBool (endlessBit k)).setWidth 8], s') ∧
      s'.bus.answers = endlessAnswers (k + 1) n :=
  ask_value c (h.trans (by rw [endlessAnswers, List.range'_succ]; rfl))

theorem valueReply_reset (p : Bool) : valueReply .reset [(BitVec.ofBool p).setWidth 8] = .presence p := by
  cases p <;> rfl

theorem accBit_allOnes {pos : Nat} (h1 : 1 ≤ pos) (hpos : pos ≤ 64) : accBit (BitVec.allOnes 64) pos = true :=
  BitVec.getLsbD_allOnes.trans (decide_eq_true (by omega))

/-- Where the pass number `m` stands that started at `s₀`, with `r` passes to follow. -/
structure EndlessPass (m r : Nat) (s₀ : State) (pos : Nat) (next : Discrepancy) (s : State) : Prop where
  frame : PassFrame s₀ s
  ld : s.ld = s₀.ld
  chosen : AgreeBelow pos s.acc (BitVec.allOnes 64)
  kept : ∀ q, pos ≤ q → accBit s.acc q = accBit s₀.acc q
  next : next = if pos ≤ tiePosition m then ldLast else BitVec.ofNat 7 (tiePosition m)
  answers : s.bus.answers = endlessAnswers (194 * m + (3 * pos - 1)) (3 * (65 - pos) + 194 * r)

/-- The pair of a position, and the choice of 1 it comes to. -/
theorem EndlessPass.choice {m r : Nat} {s₀ s : State} {pos : Nat} {next : Discrepancy}
    (htie : takesOne s₀.ld s₀.acc (tiePosition m) = true) (h : EndlessPass m r s₀ pos next s) :
    passChoice s.ld s.acc pos next (decide (pos ≠ tiePosition m)) false =
      (true, if pos + 1 ≤ tiePosition m then ldLast else BitVec.ofNat 7 (tiePosition m)) := by
  have hnext := h.next
  by_cases hpos : pos = tiePosition m
  · have htakes : takesOne s.ld s.acc pos = true := by
      rw [h.ld, takesOne_congr (h.kept pos le_rfl), hpos, htie]
    simp [passChoice, htakes, ← hpos]
  · have hiff : pos + 1 ≤ tiePosition m ↔ pos ≤ tiePosition m := by omega
    simp [passChoice, hpos, hnext, hiff]

theorem EndlessPass.position {m r : Nat} {s₀ s : State} {pos : Nat} {next : Discrepancy}
    (htie : takesOne s₀.ld s₀.acc (tiePosition m) = true) (h1 : 1 ≤ pos) (hpos : pos ≤ 64)
    (h : EndlessPass m r s₀ pos next s) :
    ∃ d s' next', PositionMade pos d s next s' next' ∧ EndlessPass m r s₀ (pos + 1) next' s' := by
  have hans := h.answers
  rw [show 3 * (65 - pos) + 194 * r = 3 * (65 - (pos + 1)) + 194 * r + 1 + 1 + 1 by omega] at hans
  obtain ⟨s₁, ask₁, hans⟩ := ask_endless .readBit hans
  rw [show 194 * m + (3 * pos - 1) + 1 = 194 * m + 3 * pos by omega] at hans
  obtain ⟨s₂, ask₂, hans⟩ := ask_endless .readBit hans
  obtain ⟨s₃, ask₃, hans⟩ := ask_endless (.writeBit (accBit (BitVec.allOnes 64) pos)) hans
  rw [valueReply_readBit, endlessBit_true m h1 hpos] at ask₁
  rw [valueReply_readBit, endlessBit_complement m h1 hpos] at ask₂
  have hmade : PositionMade pos (accBit (BitVec.allOnes 64) pos) s next _ _ :=
    ⟨_, _, s₃, ⟨s₁, ask₁, s₂, ask₂, s₃, ask₃, rfl⟩, Bool.and_false _, by
      rw [accBit_allOnes h1 hpos]; exact h.choice htie, rfl⟩
  refine ⟨_, _, _, hmade, h.frame.trans hmade.frame, hmade.ld.trans h.ld, agreeBelow_setAccBit h1 hpos h.chosen,
    fun q hq => ?_, rfl, ?_⟩
  · exact (accBit_setAccBit s.acc _ h1 hpos (by omega)).trans ((if_neg (by omega)).trans (h.kept q (by omega)))
  · rw [show 194 * m + (3 * (pos + 1) - 1) = 194 * m + 3 * pos + 1 + 1 by omega]
    exact hans

/-- The search loop at pass number `m`, with the answers and the host's accesses for `r` more passes. -/
structure EndlessLoop (m r : Nat) (s : State) : Prop where
  count : s.count.toNat = m
  host : s.host = List.replicate r (.write 0x2C 1)
  answers : s.bus.answers = endlessAnswers (194 * m) (194 * r)
  ld : s.ld ≠ ldLast
  tie : takesOne s.ld s.acc (tiePosition m) = true

/-- A pass of the loop finds an identifier, all ones, and leaves the position of its choice. -/
theorem EndlessLoop.pass {m r : Nat} {s : State} {scmd : Byte} {after : Option SearchMode} {k : List UOp}
    (h : EndlessLoop m (r + 1) s) :
    ∃ t, run (s.goto (.passReset scmd after :: k)) = run (t.goto (afterReset scmd after k)) ∧ PassFrame s t ∧
      t.ld = BitVec.ofNat 7 (tiePosition m) ∧ t.acc = BitVec.allOnes 64 ∧
      t.bus.answers = endlessAnswers (194 * (m + 1)) (194 * r) := by
  have hans := h.answers
  rw [show 194 * (r + 1) = 192 + 194 * r + 1 + 1 by omega] at hans
  obtain ⟨s₁, ask₁, hans⟩ := ask_endless .reset hans
  obtain ⟨s₂, ask₂, hans⟩ := ask_endless (.writeByte scmd) hans
  rw [valueReply_reset, endlessBit_reset] at ask₁
  have hopen : Answers s [(.reset, .presence true), (.writeByte scmd, .ok)] s₂ := ⟨s₁, ask₁, s₂, ask₂, rfl⟩
  have hld : s₂.ld = s.ld := (State.ask_ld ask₂).trans (State.ask_ld ask₁)
  have hacc : s₂.acc = s.acc := (State.ask_acc ask₂).trans (State.ask_acc ask₁)
  have htie : takesOne s₂.ld s₂.acc (tiePosition m) = true := by rw [hld, hacc, h.tie]
  have hstart : EndlessPass m r s₂ 1 ldLast s₂ :=
    ⟨.refl s₂, rfl, agreeBelow_one _ _, fun _ _ => rfl, (if_pos (tiePosition_bounds m).1).symm, hans⟩
  obtain ⟨t, next, hrun, ht⟩ := run_positions (k := afterReset scmd after k)
    (fun _ _ _ h1 hpos => EndlessPass.position htie h1 hpos) hstart
  have hframe := (PassFrame.of_answers hopen).trans ht.frame
  refine ⟨_, (run_passOpening hopen).trans hrun, hframe.cursor next t.acc, ?_, ht.chosen.eq, ?_⟩
  · exact ht.next.trans (if_neg (Nat.not_le.2 (Nat.lt_succ_of_le (tiePosition_bounds m).2)))
  · rw [ht.answers, show 194 * m + (3 * 65 - 1) = 194 * (m + 1) by omega,
      show 3 * (65 - 65) + 194 * r = 194 * r by omega]

/-- The position left by a pass is neither end of the loop, and lets the next pass take the 1 at its own choice. -/
theorem ofNat_tiePosition (m : Nat) :
    BitVec.ofNat 7 (tiePosition m) ≠ ldLast ∧ BitVec.ofNat 7 (tiePosition m) ≠ ldNone ∧
      takesOne (BitVec.ofNat 7 (tiePosition m)) (BitVec.allOnes 64) (tiePosition (m + 1)) = true := by
  rcases Nat.mod_two_eq_zero_or_one m with h | h
  · simp only [tiePosition, h, show (m + 1) % 2 = 1 by omega]
    decide
  · simp only [tiePosition, h, show (m + 1) % 2 = 0 by omega]
    decide

theorem EndlessLoop.round {m r : Nat} {s : State} {scmd : Byte} {k : List UOp} (h : EndlessLoop m (r + 1) s)
    (hm : m + (r + 1) < 2 ^ 32) :
    ∃ u, run (s.goto (.passReset scmd (some .emit) :: k)) = run (u.goto (.passReset scmd (some .emit) :: k)) ∧
      EndlessLoop (m + 1) r u := by
  obtain ⟨t, hrun, hframe, hld, hacc, hans⟩ := h.pass (scmd := scmd) (after := some .emit) (k := k)
  obtain ⟨hlast, hnone, htie⟩ := ofNat_tiePosition m
  rw [← hld] at hlast hnone
  have hcount : t.count.toNat + (r + 1) < 2 ^ 32 := by rw [hframe.count, h.count]; exact hm
  refine ⟨t.delivered (List.replicate r (.write 0x2C 1)), hrun.trans ?_, ?_, rfl, hans, hlast, ?_⟩
  · rw [afterReset, run_delivery hnone (count_ne_allOnes hcount) (hframe.host.trans h.host) rfl, if_neg hlast]
  · rw [State.delivered_count, count_succ hcount, hframe.count, h.count]
  · rw [State.delivered_ld, State.delivered_acc, hld, hacc, htie]

/-- The loop goes through all its passes, and waits at the next. -/
theorem run_endlessLoop {m r : Nat} {s : State} {scmd : Byte} {k : List UOp} (h : EndlessLoop m r s)
    (hm : m + r < 2 ^ 32) :
    ∃ t, run (s.goto (.passReset scmd (some .emit) :: k)) = .next (t.goto (.passReset scmd (some .emit) :: k)) ∧
      EndlessLoop (m + r) 0 t := by
  induction r generalizing m s with
  | zero => exact ⟨s, run_waiting (State.askOr_goto_none _ _ (State.ask_eq_none.2 h.answers)), h⟩
  | succ r ih =>
    obtain ⟨u, hrun, hu⟩ := h.round (scmd := scmd) (k := k) hm
    obtain ⟨t, hrun', ht⟩ := ih hu (by omega)
    exact ⟨t, hrun.trans hrun', by rwa [Nat.add_right_comm, Nat.add_assoc] at ht⟩

/-- Settles O46: with these answers no pass reads `(1, 1)`, and none leaves `LD_LAST`. -/
theorem searchAllNeedNotEnd : Obligations.SearchAllNeedNotEnd := by
  refine ⟨endlessAnswer, fun s n hl hn => ?_⟩
  rw [List.range_eq_range']
  generalize hs₀ : ({ s with host := _, bus := _ } : State) = s₀
  have hfree : s₀.lockFree = true := by rw [← hs₀]; exact hl
  have hloop : EndlessLoop 0 n (fresh (opened s₀)) := by
    subst hs₀
    exact ⟨rfl, rfl, rfl, show ldInit ≠ ldLast by decide,
      show takesOne ldInit 0 (tiePosition 0) = true by decide⟩
  obtain ⟨t, hrun, ht⟩ := run_endlessLoop (scmd := s₀.params.cmdSearchRom) (k := [.unlock, .finish .ok]) hloop
    (by omega)
  have hexec : exec (.searchAll false 0) s₀ = _ := (exec_searchAll_opened hfree).trans hrun
  refine ⟨_, hexec, (statusWhileInFlight _ _ _ hexec).1, ht.count.trans (Nat.zero_add n), ht.host, ht.answers, ht.ld,
    ?_⟩
  subst hs₀
  rfl

end Sys2Proof.Machine
end

section
/-! PROOFS. The statements of spec/41_addressing.md: READ_ID, MATCH_ID, SKIP and RESUME with every outcome of every
call (R160 to R163, R167), the choice of RESET_SELECT (R164), and WRITE_READ (R165). -/

namespace Sys2Proof.Machine

open Sys2Proof.Reference

/-! ### Frames that fail (R167, R225) -/

theorem answers_singleton {s t : State} {c : Call} {r : Reply} : Answers s [(c, r)] t ↔ s.ask c = some (r, t) := by
  constructor
  · rintro ⟨_, h, rfl⟩
    exact h
  · exact fun h => ⟨t, h, rfl⟩

/-- The calls of a frame up to one that fails: those before it are answered as in a frame that succeeds. -/
inductive FailsIn : List (Call × Reply) → List (Call × Reply) → Prop
  | here (c : Call) (r : Reply) (calls : List (Call × Reply)) : FailsIn ((c, r) :: calls) [(c, .fail)]
  | later {calls l : List (Call × Reply)} (q : Call × Reply) (h : FailsIn calls l) : FailsIn (q :: calls) (q :: l)

theorem failsIn_take {calls : List (Call × Reply)} {i : Nat} (hi : i < calls.length) :
    FailsIn calls (calls.take i ++ (calls.drop i).head?.toList.map fun q => (q.1, .fail)) := by
  induction calls generalizing i with
  | nil => cases hi
  | cons q calls ih =>
    cases i with
    | zero => exact .here q.1 q.2 calls
    | succ i => exact .later q (ih (Nat.lt_of_succ_lt_succ hi))

/-- A frame fails without presence, or at one of its calls. -/
theorem failures_cases {calls l : List (Call × Reply)} {e : Err} (h : (l, e) ∈ failures calls) :
    (l = [(.reset, .presence false)] ∧ e = .noPresence) ∨ (FailsIn calls l ∧ e = .busIoFailure) := by
  rcases List.mem_cons.1 h with h | h
  · cases h
    exact .inl ⟨rfl, rfl⟩
  · obtain ⟨i, hi, heq⟩ := List.mem_map.1 h
    cases heq
    exact .inr ⟨failsIn_take (List.mem_range.1 hi), rfl⟩

/-- A frame that fails, at its reset step, at its command byte, or at a call after these two. -/
theorem run_addressed_failed {s t : State} {v : Byte} {k : List UOp} {calls l : List (Call × Reply)} {e : Err}
    (hf : (l, e) ∈ failures ((.reset, .presence true) :: (.writeByte v, .ok) :: calls)) (h : Answers s l t)
    (hrest : ∀ s' l', Answers s [(.reset, .presence true), (.writeByte v, .ok)] s' → FailsIn calls l' →
      Answers s' l' t → run (s'.goto k) = run (t.goto (unwind .busIoFailure k))) :
    run (s.goto (.resetAddressed :: .writeByte v :: k)) = run (t.goto (unwind e k)) := by
  rcases failures_cases hf with ⟨rfl, rfl⟩ | ⟨hfails, rfl⟩
  · obtain ⟨_, hreset, rfl⟩ := h
    exact run_resetAddressed hreset nofun
  · cases hfails with
    | here =>
      obtain ⟨_, hreset, rfl⟩ := h
      exact run_resetAddressed_fail hreset
    | later _ hfails =>
      obtain ⟨s₁, hreset, h⟩ := h
      cases hfails with
      | here =>
        obtain ⟨_, hcmd, rfl⟩ := h
        exact (run_resetAddressed hreset nofun).trans (run_writeByte_fail hcmd)
      | later _ hfails =>
        obtain ⟨s₂, hcmd, h⟩ := h
        have hopen : Answers s [(.reset, .presence true), (.writeByte v, .ok)] s₂ := ⟨s₁, hreset, s₂, hcmd, rfl⟩
        exact (run_addressed hopen).trans (hrest s₂ _ hopen hfails h)

theorem ask_of_failsIn_singleton {s t : State} {c : Call} {r : Reply} {l : List (Call × Reply)}
    (hf : FailsIn [(c, r)] l) (h : Answers s l t) : s.ask c = some (.fail, t) := by
  cases hf with
  | here => exact answers_singleton.1 h
  | later _ hf => cases hf

/-- SKIP's frame, failed. -/
theorem run_skipFrame_failed {s t : State} {k : List UOp} {l : List (Call × Reply)} {e : Err}
    (hl : s.lockFree = true)
    (hf : (l, e) ∈ failures [(.reset, .presence true), (.writeByte s.params.cmdSkipRom, .ok)])
    (h : Answers s.locked l t) : run (s.goto (skipFrame s.params ++ k)) = run (t.unlocked.goto (unwind e k)) := by
  change run (s.goto (.lock :: .resetAddressed :: .writeByte s.params.cmdSkipRom :: .unlock :: k)) = _
  rw [run_lock hl, run_addressed_failed hf h fun _ _ _ hfails => nomatch hfails]
  exact run_unlock t _

/-- MATCH_ID's frame, failed. -/
theorem run_matchFrame_failed {s t : State} {k : List UOp} {l : List (Call × Reply)} {e : Err}
    (hl : s.lockFree = true)
    (hf : (l, e) ∈ failures
      [(.reset, .presence true), (.writeByte s.params.cmdMatchRom, .ok), (.writeBlock s.id.toList, .ok)])
    (h : Answers s.locked l t) : run (s.goto (matchFrame s.params ++ k)) = run (t.unlocked.goto (unwind e k)) := by
  change run (s.goto (.lock :: .resetAddressed :: .writeByte s.params.cmdMatchRom :: .writeId :: .unlock :: k)) = _
  rw [run_lock hl, run_addressed_failed hf h fun s' l' hopen hfails h' => ?_]
  · exact run_unlock t _
  · have hid : s'.id = s.id := by obtain ⟨_, _, _, _, rfl, -⟩ := PassFrame.of_answers hopen; rfl
    exact run_writeId_fail (hid ▸ ask_of_failsIn_singleton hfails h')

/-! ### The choice of RESET_SELECT (R164) -/

theorem selectFrame_of_many {p : Params} {pcount : BitVec 32} (h : pcount.toNat > 1) :
    selectFrame p pcount = matchFrame p := if_pos (decide_eq_true h)

theorem selectFrame_of_few {p : Params} {pcount : BitVec 32} (h : pcount.toNat ≤ 1) :
    selectFrame p pcount = skipFrame p := if_neg (by simpa [selectsByMatch] using h)

theorem selectCalls_of_many {s : State} (h : s.pcount.toNat > 1) :
    selectCalls s =
      [(.reset, .presence true), (.writeByte s.params.cmdMatchRom, .ok), (.writeBlock s.id.toList, .ok)] := if_pos h

theorem selectCalls_of_few {s : State} (h : s.pcount.toNat ≤ 1) :
    selectCalls s = [(.reset, .presence true), (.writeByte s.params.cmdSkipRom, .ok)] := if_neg (Nat.not_lt.2 h)

/-- The select step, failed. -/
theorem run_selectFrame_failed {s t : State} {k : List UOp} {l : List (Call × Reply)} {e : Err}
    (hl : s.lockFree = true) (hf : (l, e) ∈ failures (selectCalls s)) (h : Answers s.locked l t) :
    run (s.goto (.select :: k)) = run (t.unlocked.goto (unwind e k)) := by
  rw [run_select]
  rcases Nat.lt_or_ge 1 s.pcount.toNat with hmany | hfew
  · rw [selectCalls_of_many hmany] at hf
    rw [selectFrame_of_many hmany, run_matchFrame_failed hl hf h]
  · rw [selectCalls_of_few hfew] at hf
    rw [selectFrame_of_few hfew, run_skipFrame_failed hl hf h]

theorem exec_resetSelect_of_many {s : State} (h : s.pcount.toNat > 1) : exec .resetSelect s = exec .matchId s := by
  refine (run_select (s.issue []) _).trans ?_
  rw [State.issue_params, State.issue_pcount, selectFrame_of_many h]
  rfl

theorem exec_resetSelect_of_few {s : State} (h : s.pcount.toNat ≤ 1) : exec .resetSelect s = exec .skip s := by
  refine (run_select (s.issue []) _).trans ?_
  rw [State.issue_params, State.issue_pcount, selectFrame_of_few h]
  rfl

/-! ### The addressing operations -/

/-- Settles O26: the frame answered, or failed, and its bracket closed. -/
theorem matchIdFollowsItsRule : Obligations.MatchIdFollowsItsRule := fun s hl =>
  ⟨fun _ h => exec_matchId_answered hl h, fun _ _ _ hf h =>
    (run_matchFrame_failed (s := s.issue []) hl hf h).trans (run_finish _ _ _)⟩

/-- Settles O27: the frame answered, or failed, and its bracket closed. -/
theorem skipFollowsItsRule : Obligations.SkipFollowsItsRule := fun s hl =>
  ⟨fun _ h => exec_skip_answered hl h, fun _ _ _ hf h =>
    (run_skipFrame_failed (s := s.issue []) hl hf h).trans (run_finish _ _ _)⟩

theorem exec_resume_failed {s t : State} {l : List (Call × Reply)} {e : Err} (hl : s.lockFree = true)
    (hf : (l, e) ∈ failures [(.reset, .presence true), (.writeByte s.params.cmdResume, .ok)])
    (h : Answers (opened s) l t) : exec .resume s = .next (closed t e) :=
  (start_opened hl).trans
    ((run_addressed_failed hf h fun _ _ _ hfails => nomatch hfails).trans (run_unlock_finish _ _ _))

/-- Settles O28: the frame answered, or failed, and its bracket closed. -/
theorem resumeFollowsItsRule : Obligations.ResumeFollowsItsRule := fun _ hl =>
  ⟨fun _ h => exec_resume_answered hl h, fun _ _ _ hf h => exec_resume_failed hl hf h⟩

theorem exec_readId_failed {s t : State} {l : List (Call × Reply)} {e : Err} (hl : s.lockFree = true)
    (hf : (l, e) ∈ failures
      [(.reset, .presence true), (.writeByte s.params.cmdReadRom, .ok), (.readBlock 8, .ok)])
    (h : Answers (opened s) l t) : exec .readId s = .next (closed t e) := by
  refine (start_opened hl).trans ((run_addressed_failed hf h fun _ _ _ hfails h' => ?_).trans
    (run_unlock_finish _ _ _))
  exact run_readId_fail (ask_of_failsIn_singleton hfails h')

/-- Settles O25: the checksum is taken with the parameters the operation began with, which no call writes. -/
theorem readIdFollowsItsRule : Obligations.ReadIdFollowsItsRule := by
  refine fun s hl => ⟨fun bs t h => ?_, fun _ _ _ hf h => exec_readId_failed hl hf h⟩
  have hp : t.params = s.params := (PassFrame.of_answers h).params
  rw [exec_readId_answered hl h, ← hp]
  rfl

/-- Settles O29: the select step is the frame of the chosen operation. -/
theorem resetSelectChoosesByPeripheralCount : Obligations.ResetSelectChoosesByPeripheralCount := by
  refine fun s => ⟨exec_resetSelect_of_many, exec_resetSelect_of_few, fun hl t h => ?_⟩
  exact (run_selectFrame (s := s.issue []) hl h).trans (run_finish _ _ _)

/-! ### WRITE_READ (R165) -/

/-- What WRITE_READ does once the command bytes are out. -/
def afterCommand (resp : Bool) : List UOp := (if resp then [.readRx] else []) ++ [.unlock, .finish .ok]

/-- An error raised before the response closes the outer bracket. -/
theorem run_afterCommand_raised (s : State) (e : Err) (resp : Bool) :
    run (s.goto (unwind e (afterCommand resp))) = .next (closed s e) := by
  have hunwind : unwind e (afterCommand resp) = [.unlock, .finish e] := by cases resp <;> rfl
  rw [hunwind, run_unlock_finish]

/-- After the select step the command block is still that of the host. -/
theorem selected_block? {s u : State} {tx : List Byte} (hblock : s.txbuf.block? 0 s.txlen = some tx)
    (h : Answers (opened s).locked (selectCalls s) u) : u.unlocked.txbuf.block? 0 u.unlocked.txlen = some tx := by
  obtain ⟨htxbuf, htxlen⟩ := answers_keepsTx h
  rw [State.unlocked_txbuf, State.unlocked_txlen, htxbuf, htxlen]
  exact hblock

/-- The calls of a frame leave the response block as it was. -/
theorem answers_keepsRx {s t : State} {l : List (Call × Reply)} (h : Answers s l t) :
    t.rxlen = s.rxlen ∧ t.rxbuf = s.rxbuf := by
  obtain ⟨_, _, _, _, rfl, -⟩ := PassFrame.of_answers h
  exact ⟨rfl, rfl⟩

/-- Once the command bytes are out the response block is still that of the host. -/
theorem sent_keepsRx {s u t : State} {tx : List Byte} (h : Answers (opened s).locked (selectCalls s) u)
    (h' : Answers u.unlocked [(.writeBlock tx, .ok)] t) : t.rxlen = s.rxlen ∧ t.rxbuf = s.rxbuf :=
  ⟨(answers_keepsRx h').1.trans (answers_keepsRx h).1, (answers_keepsRx h').2.trans (answers_keepsRx h).2⟩

section
variable {s u t : State} {resp : Bool} {tx : List Byte} (hl : s.lockFree = true) (htx : fits s.params.txMax s.txlen)
  (hrx : resp = true → fits s.params.rxMax s.rxlen)
include hl htx hrx

theorem exec_writeRead_opened :
    exec (.writeRead resp) s = run ((opened s).goto (.select :: .writeTx :: afterCommand resp)) := by
  have hrx' : (resp && exceeds s.params.rxMax s.rxlen) = false := by
    cases resp with
    | false => rfl
    | true => exact exceeds_eq_false_iff.2 (hrx rfl)
  simp only [exec, execWriteRead, exceeds_eq_false_iff.2 htx, hrx', Bool.false_eq_true, if_false]
  exact start_opened hl

/-- The select step failed. -/
theorem exec_writeRead_unselected {l : List (Call × Reply)} {e : Err} (hf : (l, e) ∈ failures (selectCalls s))
    (h : Answers (opened s).locked l u) : exec (.writeRead resp) s = .next (closed u.unlocked e) := by
  rw [exec_writeRead_opened hl htx hrx, run_selectFrame_failed (opened_lockFree s) hf h]
  exact run_afterCommand_raised u.unlocked e resp

/-- The select step succeeded, and the command bytes are next. -/
theorem exec_writeRead_selected (h : Answers (opened s).locked (selectCalls s) u) :
    exec (.writeRead resp) s = run (u.unlocked.goto (.writeTx :: afterCommand resp)) :=
  (exec_writeRead_opened hl htx hrx).trans (run_selectFrame (opened_lockFree s) h)

variable (hblock : s.txbuf.block? 0 s.txlen = some tx) (h : Answers (opened s).locked (selectCalls s) u)
include hblock h

/-- The command bytes failed. -/
theorem exec_writeRead_unsent (h' : Answers u.unlocked [(.writeBlock tx, .fail)] t) :
    exec (.writeRead resp) s = .next (closed t .busIoFailure) := by
  rw [exec_writeRead_selected hl htx hrx h, run_writeTx_fail (selected_block? hblock h) (answers_singleton.1 h')]
  exact run_afterCommand_raised t _ resp

/-- The command bytes are out. -/
theorem exec_writeRead_sent (h' : Answers u.unlocked [(.writeBlock tx, .ok)] t) :
    exec (.writeRead resp) s = run (t.goto (afterCommand resp)) := by
  rw [exec_writeRead_selected hl htx hrx h, run_writeTx (selected_block? hblock h) (answers_singleton.1 h') nofun]

end

/-- The response read into `RXBUF` (R165). -/
theorem run_afterCommand_response {t v : State} {bs : List Byte}
    (h : Answers t [(.readBlock t.rxlen, .bytes bs)] v) :
    run (t.goto (afterCommand true)) = .next (closed { v with rxbuf := v.rxbuf.writeBlock 0 bs } .ok) :=
  (run_readRx (answers_singleton.1 h) nofun).trans (run_unlock_finish _ _ _)

theorem run_afterCommand_response_failed {t v : State} (h : Answers t [(.readBlock t.rxlen, .fail)] v) :
    run (t.goto (afterCommand true)) = .next (closed v .busIoFailure) :=
  (run_readRx_fail (answers_singleton.1 h)).trans (run_unlock_finish _ _ _)

/-- The response buffer after the block read: the bytes of the block below its length, the other bytes as before. -/
theorem read_response {buf : Buffer} {bs : List Byte} (h : buf.wf = true) (k : Nat) :
    (buf.writeBlock 0 bs).read? k = if k < bs.length then bs[k]? else buf.read? k := by
  rw [Buffer.read_writeBlock h]
  simp

/-- Settles O30: the select step in its own bracket, then each of the two blocks answered or failed. -/
theorem writeReadFollowsItsRule : Obligations.WriteReadFollowsItsRule := by
  intro s resp tx hl htx hrx hlen hread
  have hblock : s.txbuf.block? 0 s.txlen = some tx :=
    Buffer.block?_eq_some_iff.2 ⟨hlen, fun k hk => (Nat.zero_add k).symm ▸ hread k hk⟩
  refine ⟨?response, ?sent, fun l e u hf h => exec_writeRead_unselected hl htx hrx hf h,
    fun u t h h' => exec_writeRead_unsent hl htx hrx hblock h h', ?unanswered⟩
  case response =>
    rintro u t bs v h h' h'' rfl
    have hrun := exec_writeRead_sent hl htx hrx hblock h h'
    have hbs : bs.length = s.rxlen := State.ask_readBlock_length (answers_singleton.1 h'')
    have hv : v.rxbuf = s.rxbuf := (answers_keepsRx h'').2.trans (sent_keepsRx h h').2
    rw [← (sent_keepsRx h h').1] at h''
    refine ⟨hrun.trans (run_afterCommand_response h''), hbs, fun hwf k => ?_⟩
    rw [hv, read_response hwf, hbs]
  case sent =>
    rintro u t h h' rfl
    exact (exec_writeRead_sent hl htx hrx hblock h h').trans (run_unlock_finish t .ok [])
  case unanswered =>
    rintro u t v h h' h'' rfl
    rw [← (sent_keepsRx h h').1] at h''
    exact (exec_writeRead_sent hl htx hrx hblock h h').trans (run_afterCommand_response_failed h'')

end Sys2Proof.Machine
end

section
/-! PROOFS. The statements of spec/42_session.md: the session checks (R200), ACQUIRE (R191, R192), RELEASE (R193 to
R195), SCAN (R196 to R199), and the session state machine (R190). -/

namespace Sys2Proof.Machine

open Sys2Proof.Reference

/-! ### The session checks (R200) -/

theorem exec_acquire_misuse {s : State} (h : s.sess ≠ .idle) :
    exec .acquire s = .next (endedWith s .misuse) := if_neg h

theorem exec_release_notAcquired {s : State} (h : s.sess ≠ .acquired) :
    exec .release s = .next (endedWith s .notAcquired) := if_neg h

theorem exec_scan_notAcquired {s : State} {alarm : Bool} {fam : Byte} (h : s.sess ≠ .acquired) :
    exec (.scan alarm fam) s = .next (endedWith s .notAcquired) := if_neg h

/-- Settles O49: each operation looks at the session before its first step. -/
theorem sessionMisuseIsRefusedWithoutEffect : Obligations.SessionMisuseIsRefusedWithoutEffect := fun _ _ _ =>
  ⟨fun h => ⟨exec_scan_notAcquired h, exec_release_notAcquired h⟩, exec_acquire_misuse⟩

/-! ### ACQUIRE (R191, R192) -/

/-- The calls of a frame leave the session layer as it was. -/
theorem PassFrame.session {s t : State} (h : PassFrame s t) : t.sess = s.sess ∧ t.quirk = s.quirk := by
  obtain ⟨_, _, _, _, rfl, -⟩ := h
  exact ⟨rfl, rfl⟩

/-- What ACQUIRE does after its last call. -/
def acquireEnd : List UOp := [.unlock, .set .clearQuirk, .set .acquire, .finish .ok]

theorem run_acquireEnd (s : State) :
    run (s.goto acquireEnd) = .next ({ s.unlocked with quirk := false, sess := .acquired }.complete .ok) := by
  rw [acquireEnd, run_unlock, run_set, run_set, run_finish]
  rfl

/-- An error raised before ACQUIRE's last call has returned closes the bracket. -/
theorem run_acquireEnd_raised (s : State) :
    run (s.goto (unwind .busIoFailure acquireEnd)) = .next (closed s .busIoFailure) := run_unlock_finish s _ []

section
variable {s u : State} (hl : s.lockFree = true) (hs : s.sess = .idle)
include hl hs

theorem exec_acquire_opened :
    exec .acquire s = run ((opened s).goto (.resumePower :: .settle :: .resetIgnored :: acquireEnd)) :=
  (if_pos hs).trans (start_opened hl)

/-- The power is up, and the bus has settled. -/
theorem exec_acquire_powered {r : Reply} (h : (opened s).ask .resumePower = some (r, u)) (hr : r ≠ .fail) :
    exec .acquire s = run ((u.record (.settle s.params.tSettle)).goto (.resetIgnored :: acquireEnd)) := by
  have hp : u.params = s.params := (State.ask_params h).trans rfl
  rw [exec_acquire_opened hl hs, run_resumePower h hr, run_settle, hp]

theorem exec_acquire_unpowered (h : (opened s).ask .resumePower = some (.fail, u)) :
    exec .acquire s = .next (closed u .busIoFailure) := by
  rw [exec_acquire_opened hl hs, run_resumePower_fail h]
  exact run_acquireEnd_raised u

end

/-- Settles O47: each of the two calls answered, or failed. -/
theorem acquireFollowsItsRule : Obligations.AcquireFollowsItsRule := by
  refine fun s => ⟨exec_acquire_misuse, fun hl hs => ⟨fun u hu => ?_, fun t ht => ?_⟩⟩
  · have hpower := answers_singleton.1 hu
    have hsu := (PassFrame.of_ask hpower).session
    have hrun := exec_acquire_powered hl hs hpower nofun
    refine ⟨fun p t ht => ?_, fun t ht => ?_⟩
    · rw [hrun, run_resetIgnored (answers_singleton.1 ht) nofun]
      exact run_acquireEnd t
    · have hst := (PassFrame.of_answers ht).session
      rw [hrun, run_resetIgnored_fail (answers_singleton.1 ht)]
      exact ⟨run_acquireEnd_raised t, hst.1.trans (hsu.1.trans hs), hst.2.trans hsu.2⟩
  · have hpower := answers_singleton.1 ht
    have hst := (PassFrame.of_ask hpower).session
    exact ⟨exec_acquire_unpowered hl hs hpower, hst.1.trans hs, hst.2⟩

/-! ### RELEASE (R193 to R195) -/

section
variable {s s' u : State} {k : List UOp}

/-- The reset step without presence, or failed, raises: of the rest of SKIP's bracket only its closing is done. -/
theorem run_resetAddressed_absent {r : Reply} {v : Byte} (h : s.ask .reset = some (r, s')) (hr : r.flag = false) :
    ∃ e, run (s.goto (.resetAddressed :: .writeByte v :: .unlock :: k)) = run (s'.goto (.unlock :: unwind e k)) := by
  by_cases hfail : r = .fail
  · subst hfail
    exact ⟨_, run_resetAddressed_fail h⟩
  · exact ⟨.noPresence, by rw [run_resetAddressed h hfail, hr]; rfl⟩

/-- A failure in the quirk step is a warning (R194). -/
theorem run_quirkCatch_failed : run (s.goto (.quirkCatch true :: k)) = run ((s.warn .quirk).goto k) :=
  run_quirkCatch s k true

/-- The quirk step is that of the pseudocode. -/
theorem run_quirkFrame (hl : s.lockFree = true) (h : quirkSleep s = some u) :
    run (s.goto (quirkFrame s.params ++ k)) = run (u.goto k) := by
  change run (s.goto (.lock :: .resetAddressed :: .writeByte s.params.cmdSkipRom :: .unlock ::
    .writeByte s.params.quirkSleepCmd :: .quirkCatch false :: k)) = _
  rw [run_lock hl]
  unfold quirkSleep at h
  split at h
  · cases h
  next p s₁ hreset =>
  have hp₁ : s₁.params = s.params := (State.ask_params hreset).trans rfl
  split at h
  · next hflag =>
    cases h
    obtain ⟨e, hrun⟩ := run_resetAddressed_absent (v := s.params.cmdSkipRom)
      (k := .writeByte s.params.quirkSleepCmd :: .quirkCatch false :: k) hreset hflag
    rw [hrun, run_unlock]
    exact run_quirkCatch_failed
  next hflag =>
  have hpresent : p ≠ .fail := by rintro rfl; exact hflag rfl
  rw [run_resetAddressed hreset hpresent, if_pos (Bool.eq_true_of_not_eq_false hflag), ← hp₁]
  split at h
  · cases h
  · next s₂ hcmd =>
    cases h
    rw [run_writeByte_fail hcmd, unwind, run_unlock]
    exact run_quirkCatch_failed
  next r s₂ hr hcmd =>
  rw [run_writeByte hcmd (by rintro rfl; exact hr rfl), run_unlock, ← State.ask_params hcmd]
  split at h
  · cases h
  · next s₃ hsleep =>
    cases h
    rw [run_writeByte_fail hsleep]
    exact run_quirkCatch_failed
  · next r' s₃ hr' hsleep =>
    cases h
    rw [run_writeByte hsleep (by rintro rfl; exact hr' rfl)]
    exact run_quirkCatch _ k false

/-- RELEASE's test of `QUIRK` (R193). -/
theorem run_quirkPart (hl : s.lockFree = true) (h : quirkPart s = some u) :
    run (s.goto (.quirkStep :: k)) = run (u.goto k) := by
  rw [run_quirkStep]
  unfold quirkPart at h
  split at h
  · next hq => rw [if_pos hq]; exact run_quirkFrame hl h
  · next hq => cases h; rw [if_neg hq]

/-- The power suspend and RELEASE's end, whether or not the suspend failed (R193, R195). -/
theorem run_suspendPower_released {r : Reply} (h : u.ask .suspendPower = some (r, s)) :
    run (u.goto [.suspendPower, .unlock, .released .ok]) =
      .next (releaseEnd s (if r = .fail then .busIoFailure else .ok)) := by
  split
  · next hr =>
    subst hr
    rw [run_suspendPower_fail h, unwind, run_unlock]
    exact run_released _ _ _
  · next hr =>
    rw [run_suspendPower h hr, run_unlock]
    exact run_released _ _ _

end

/-- RELEASE's beginning: the session Released. -/
def State.beginRelease (s : State) : State := { s with sess := .released }

/-- A RELEASE in an Acquired session is its bracket and end, issued once begun. -/
theorem exec_release_begun {s : State} (hs : s.sess = .acquired) :
    exec .release s = start [.lock, .quirkStep, .suspendPower, .unlock, .released .ok] s.beginRelease :=
  (if_pos hs).trans (run_beginRelease (s.issue []) [])

/-- Settles O48: the quirk step, the suspend, and the end, from the open bracket. -/
theorem releaseFollowsItsRule : Obligations.ReleaseFollowsItsRule := by
  refine fun s => ⟨exec_release_notAcquired, fun hl hs u t r hu ht => ?_⟩
  rw [exec_release_begun hs, start_opened (s := s.beginRelease) hl,
    run_quirkPart (s := opened s.beginRelease) (opened_lockFree _) hu]
  exact run_suspendPower_released ht

/-! ### SCAN against its pseudocode (R196) -/

/-- SCAN's beginning: the session Scanning, `QUIRK` clear and the record empty. -/
def State.beginScan (s : State) : State := { s with sess := .scanning, quirk := false, scanrec := [] }

/-- A SCAN in an Acquired session is the body of SEARCH_ALL and the reports, issued once begun. -/
theorem exec_scan_begun {s : State} {alarm : Bool} {fam : Byte} (hs : s.sess = .acquired) :
    exec (.scan alarm fam) s =
      start (searchBody (searchCommand s.params alarm) .collect ++ [.scanCatch .ok]) s.beginScan :=
  (if_pos hs).trans (run_beginScan (s.issue []) [] _)

/-- The search phase of a SCAN is the loop from the open bracket and the fresh cursor. -/
theorem exec_scan_opened {s : State} {alarm : Bool} {fam : Byte} (hl : s.lockFree = true) (hs : s.sess = .acquired) :
    exec (.scan alarm fam) s = run ((fresh (opened s.beginScan)).goto
      [.passReset (searchCommand s.params alarm) (some .collect), .unlock, .scanCatch .ok]) :=
  (exec_scan_begun hs).trans ((start_opened (s := s.beginScan) hl).trans (run_freshCursor _ _))

/-- The end of the search phase: the bracket closed, the reports next. -/
theorem run_scanCaught (s : State) (e : Err) :
    run (s.goto [.unlock, .scanCatch e]) = run (s.unlocked.goto [.report e s.scanrec]) :=
  (run_unlock s _).trans (run_scanCatch s.unlocked [] e)

/-- The outcome `o` of running on is what the report loop comes to: from the state it returns SCAN ends with `e`; and
where the loop waits for the host, so does SCAN. -/
def ReportsAs (o : Host.Outcome State Fault Refusal) (e : Err) : Option State → Prop
  | some u => o = .next (scanEnd u e)
  | none => ∃ u, o = .next u ∧ u.seq ≠ []

/-- `ID <- id`, and the report event of it pending. -/
def State.reporting (s : State) (i : Identifier) : State := { s with id := i }.emitReport

section
variable {s : State} {a : HostInput} {rest : List HostInput} {i : Identifier} {todo : List Identifier}

/-- The host's next access takes the pending event, or the engine goes on waiting for one that does. -/
theorem host_takes_or_waits (s : State) :
    (∃ a rest, s.host = a :: rest ∧ takesEvent a = true) ∨ ∀ a rest, s.host = a :: rest → takesEvent a = false := by
  rcases s.host with _ | ⟨a, rest⟩
  · exact .inr nofun
  · cases ha : takesEvent a
    · exact .inr fun _ _ heq => by cases heq; exact ha
    · exact .inl ⟨a, rest, rfl, ha⟩

theorem reported_cons_taken (hhost : s.host = a :: rest) (ha : takesEvent a = true) :
    reported (i :: todo) s = reported todo (if callbackFailed a
      then ((s.reporting i).reportTaken rest).warn .callback
      else (s.reporting i).reportTaken rest) := by
  simp only [reported, hhost, ha, if_true]
  rfl

theorem reported_cons_waits (h : ∀ a rest, s.host = a :: rest → takesEvent a = false) :
    reported (i :: todo) s = none := by
  rcases hhost : s.host with _ | ⟨a, rest⟩
  · simp only [reported, hhost]
  · simp only [reported, hhost, h a rest hhost, Bool.false_eq_true, if_false]

theorem run_report_reporting (e : Err) :
    run (s.goto [.report e (i :: todo)]) = run ((s.reporting i).goto [.awaitReport e todo]) :=
  run_report_cons s [] e i todo

theorem run_awaitReport_waits (e : Err) (h : ∀ a rest, s.host = a :: rest → takesEvent a = false) :
    run (s.goto [.awaitReport e todo]) = .next (s.goto [.awaitReport e todo]) := by
  apply run_waiting
  simp only [transact, State.goto_seq, stepAwaitReport, State.goto_host]
  split
  · rfl
  · next a rest hhost => rw [h a rest hhost]; rfl

end

/-- The sequencer's report loop is that of the pseudocode. -/
theorem reportsAs_reported (e : Err) (todo : List Identifier) (s : State) :
    ReportsAs (run (s.goto [.report e todo])) e (reported todo s) := by
  induction todo generalizing s with
  | nil => exact run_report_nil s [] e
  | cons i todo ih =>
    rw [run_report_reporting]
    rcases host_takes_or_waits s with ⟨a, rest, hhost, ha⟩ | hwaits
    · rw [reported_cons_taken hhost ha, run_awaitReport [] e todo (s := s.reporting i) hhost ha]
      exact ih _
    · rw [reported_cons_waits hwaits, run_awaitReport_waits (s := s.reporting i) e hwaits]
      exact ⟨_, rfl, List.cons_ne_nil _ _⟩

/-- The reports of what the record holds at the end of the search phase. -/
theorem reportsAs_scanCaught (e : Err) (s : State) :
    ReportsAs (run (s.goto [.unlock, .scanCatch e])) e (reported s.scanrec s.unlocked) := by
  rw [run_scanCaught]
  exact reportsAs_reported e s.scanrec s.unlocked

section
variable {s t : State} {alarm : Bool} {fam : Byte} {n : Nat} (hl : s.lockFree = true) (hs : s.sess = .acquired)
include hl hs

theorem exec_scan_endsAs
    (h : search (searchCommand s.params alarm) .collect n (fresh (opened s.beginScan)) ≠ .unfinished) :
    EndsAs (exec (.scan alarm fam) s) [.unlock, .scanCatch .ok]
      (search (searchCommand s.params alarm) .collect n (fresh (opened s.beginScan))) := by
  rw [exec_scan_opened hl hs]
  exact endsAs_search h

theorem exec_scan_returned
    (h : search (searchCommand s.params alarm) .collect n (fresh (opened s.beginScan)) = .returned t) :
    ReportsAs (exec (.scan alarm fam) s) .ok (reported t.scanrec t.unlocked) := by
  have hends := exec_scan_endsAs (fam := fam) hl hs (by rw [h]; nofun)
  rw [h] at hends
  exact hends.symm ▸ reportsAs_scanCaught .ok t

/-- A search that failed is reported like one that returned. -/
theorem exec_scan_failed
    (h : search (searchCommand s.params alarm) .collect n (fresh (opened s.beginScan)) = .failed t) :
    ReportsAs (exec (.scan alarm fam) s) .busIoFailure (reported t.scanrec t.unlocked) := by
  have hends := exec_scan_endsAs (fam := fam) hl hs (by rw [h]; nofun)
  rw [h] at hends
  exact hends.symm ▸ reportsAs_scanCaught .busIoFailure t

end

/-- Settles O50: the loop against the pseudocode, then the report loop. -/
theorem scanFollowsItsPseudocode : Obligations.ScanFollowsItsPseudocode := by
  refine fun s alarm fam n => ⟨exec_scan_notAcquired, fun hl hs => ⟨fun t u ht hu => ?_, fun t u ht hu => ?_⟩⟩
  · exact (congrArg (ReportsAs _ _) hu).mp (exec_scan_returned hl hs ht)
  · exact (congrArg (ReportsAs _ _) hu).mp (exec_scan_failed hl hs ht)

/-! ### A SCAN that ran to its end (R197 to R199) -/

/-- A routine that returned, or failed, did so in a state of this kind. -/
def Leaves (P : State → Prop) : Ending → Prop
  | .returned t | .failed t => P t
  | .unfinished => True

theorem Leaves.imp {P Q : State → Prop} {e : Ending} (h : Leaves P e) (himp : ∀ t, P t → Q t) : Leaves Q e := by
  cases e with
  | unfinished => trivial
  | returned t | failed t => exact himp t h

/-- Between the two lies part of a pass, which used up at least `n` answers. -/
def PassUses (n : Nat) (s t : State) : Prop := PassFrame s t ∧ t.bus.answers.length + n ≤ s.bus.answers.length

/-- A guarded call uses up an answer, whatever is made of its reply. -/
theorem leaves_calling {n : Nat} {s : State} {c : Call} {go : Reply → State → Ending} (hn : n ≤ 1)
    (hgo : ∀ r s', Leaves (PassUses 0 s') (go r s')) : Leaves (PassUses n s) (calling s c go) := by
  rcases calling_cases s c go with ⟨-, hcall⟩ | ⟨s', hask, hcall⟩ | ⟨r, s', -, hask, hcall⟩ <;> rw [hcall]
  · trivial
  · have hanswers := State.ask_answers hask
    exact ⟨.of_ask hask, by omega⟩
  · have hanswers := State.ask_answers hask
    exact (hgo r s').imp fun t ⟨hframe, hle⟩ => ⟨(PassFrame.of_ask hask).trans hframe, by omega⟩

theorem leaves_positions (n : Nat) (next : Discrepancy) (s : State) :
    Leaves (PassUses 0 s) (positions n next s) := by
  have written (s : State) (ld : Discrepancy) (acc : Acc) : PassFrame s { s with ld := ld, acc := acc } :=
    (PassFrame.refl s).cursor ld acc
  induction n generalizing next s with
  | zero => exact ⟨written s next s.acc, le_rfl⟩
  | succ n ih =>
    rw [positions_succ]
    refine leaves_calling (Nat.zero_le 1) fun b s₁ => leaves_calling (Nat.zero_le 1) fun c s₂ => ?_
    split
    · exact ⟨written s₂ ldNone s₂.acc, le_rfl⟩
    · refine leaves_calling (Nat.zero_le 1) fun _ s₃ => (ih _ { s₃ with acc := _ }).imp fun t ⟨hframe, hle⟩ => ?_
      exact ⟨(written s₃ s₃.ld _).trans hframe, hle⟩

/-- A pass uses up an answer, and leaves alone what `PassFrame` says. -/
theorem leaves_onePass (scmd : Byte) (s : State) : Leaves (PassUses 1 s) (onePass scmd s) := by
  refine leaves_calling le_rfl fun p s₁ => ?_
  split
  · exact ⟨(PassFrame.refl s₁).cursor ldNone s₁.acc, le_rfl⟩
  · exact leaves_calling (Nat.zero_le 1) fun _ s₂ => leaves_positions 64 ldLast s₂

/-! #### What the search phase collects -/

theorem reportedIn_append (l l' : List Event) : reportedIn (l ++ l') = reportedIn l' ++ reportedIn l := by
  simp [reportedIn, List.filterMap_append]

/-- Transport calls are no report events. -/
theorem reportedIn_of_isCall {l : List Event} (h : ∀ e ∈ l, isCall e = true) : reportedIn l = [] := by
  simp only [reportedIn, List.filterMap_eq_nil_iff, List.mem_reverse]
  intro e he
  have hcall := h e he
  cases e with
  | call => rfl
  | _ => cases hcall

/-- The collector in the search phase of a SCAN issued in `s₀`: as many identifiers in the record as counted, `QUIRK`
their family test (R197, R199), and no event in the output since. -/
structure Collecting (s₀ s : State) : Prop where
  count : s.count.toNat = s.scanrec.length
  quirk : s.quirk = s.scanrec.any fun i => i.family == s₀.params.quirkFamily
  params : s.params = s₀.params
  reported : reportedIn s.log = reportedIn s₀.log
  found : foundIn s.log = foundIn s₀.log

theorem collecting_begun (s : State) : Collecting s (fresh (opened s.beginScan)) where
  count := rfl
  quirk := rfl
  params := rfl
  reported := (reportedIn_append [.lock] s.log).trans (List.append_nil _)
  found := (foundIn_append [.lock] s.log).trans (List.append_nil _)

/-- A pass collects nothing. -/
theorem Collecting.pass {s₀ s t : State} (h : Collecting s₀ s) (hframe : PassFrame s t) : Collecting s₀ t := by
  obtain ⟨_, _, _, l, rfl, -, hcalls⟩ := hframe
  refine { h with reported := ?_, found := ?_ }
  · rw [reportedIn_append, reportedIn_of_isCall hcalls, List.append_nil, h.reported]
  · rw [foundIn_append, foundIn_of_isCall hcalls, List.append_nil, h.found]

theorem collected_eq_some {s u : State} (h : collected s = some u) : u = collected.kept s := by
  unfold collected at h
  split at h
  · exact (Option.some.inj (Option.ite_none_right_eq_some.1 h).2).symm
  · exact (Option.some.inj h).symm

/-- A count that may be raised. -/
theorem succ_lt_of_ne_allOnes {c : BitVec 32} (h : c ≠ BitVec.allOnes 32) : c.toNat + 1 < 2 ^ 32 := by
  refine lt_of_le_of_ne c.isLt fun heq => h (BitVec.eq_of_toNat_eq ?_)
  rw [BitVec.toNat_allOnes]
  omega

/-- An identifier counted and collected. -/
theorem Collecting.kept {s₀ s u : State} (h : Collecting s₀ s) (hcount : s.count ≠ BitVec.allOnes 32)
    (hkept : collected { s with count := s.count + 1, id := idOf s.acc } = some u) : Collecting s₀ u := by
  obtain rfl := collected_eq_some hkept
  have hsucc : (s.count + 1).toNat = s.count.toNat + 1 := count_succ (n := 0) (succ_lt_of_ne_allOnes hcount)
  refine { params := h.params, reported := h.reported, found := h.found, count := ?_, quirk := ?_ }
  · rw [collected.kept, hsucc, h.count, List.length_append]
    rfl
  · simp [collected.kept, h.quirk, h.params]

theorem leaves_search {s₀ s : State} (scmd : Byte) (n : Nat) (h : Collecting s₀ s) :
    Leaves (Collecting s₀) (search scmd .collect n s) := by
  induction n generalizing s with
  | zero => trivial
  | succ n ih =>
    have hleaves := (leaves_onePass scmd s).imp fun t ht => h.pass ht.1
    cases hpass : onePass scmd s <;> rw [hpass] at hleaves
    case unfinished => simp only [search, hpass, Leaves]
    case failed t => rwa [search_failed hpass]
    case returned t =>
      by_cases hld : t.ld = ldNone
      · rwa [search_none hpass hld]
      · by_cases hfinished : search scmd .collect (n + 1) s = .unfinished
        · rw [hfinished]; trivial
        · obtain ⟨hcount, u, hkept, hsearch⟩ := search_found hpass hld hfinished
          have hu : Collecting s₀ u := Collecting.kept hleaves hcount hkept
          rw [hsearch]
          split
          · exact hu
          · exact ih hu

/-! #### A search that goes on -/

/-- The outcome is no completed operation. -/
def NotCompleted (o : Host.Outcome State Fault Refusal) : Prop := ∀ t, o = .next t → t.seq ≠ []

theorem notCompleted_of_waits {o : Host.Outcome State Fault Refusal} (h : ∃ u, o = .next u ∧ u.seq ≠ []) :
    NotCompleted o := by
  obtain ⟨u, rfl, hseq⟩ := h
  rintro t ⟨⟩
  exact hseq

theorem notCompleted_of_refused {o : Host.Outcome State Fault Refusal} {r : Refusal} (h : o = .refused r) :
    NotCompleted o := by
  rw [h]
  rintro t ⟨⟩

/-- An identifier that can be counted no more (R25). -/
theorem run_afterPass_overflow {s : State} {k : List UOp} (scmd : Byte) (mode : SearchMode) (h : s.ld ≠ ldNone)
    (hc : s.count = BitVec.allOnes 32) : run (s.goto (.afterPass scmd mode :: k)) = .refused .countOverflow :=
  (run_moved (s := s.goto (.afterPass scmd mode :: k))
    (s' := s.goto (.countUp :: .set .identify :: (deliver mode ++ .loopTest scmd mode :: k))) (if_neg h)).trans
      (run_refused (if_pos hc))

/-- An identifier that has no place in the record (U16). -/
theorem run_collected_none {s : State} {k : List UOp} (h : collected s = none) :
    run (s.goto (.append :: k)) = .refused .scanRecordFull := by
  refine run_refused (if_pos ?_)
  unfold collected at h
  split at h
  · next cap hcap =>
    rw [State.goto_params, hcap]
    simpa [exceeds, Nat.lt_succ_iff] using h
  · cases h

/-- A search that goes on through more passes than there are answers does not end: it waits, or is refused. -/
theorem run_search_unfinished {scmd : Byte} {n : Nat} {s : State} {k : List UOp} (hn : s.bus.answers.length < n)
    (h : search scmd .collect n s = .unfinished) :
    NotCompleted (run (s.goto (.passReset scmd (some .collect) :: k))) := by
  induction n generalizing s with
  | zero => exact absurd hn (Nat.not_lt_zero _)
  | succ n ih =>
    have hends := endsAs_onePass (k := k) scmd (some .collect) s
    have huses := leaves_onePass scmd s
    cases hpass : onePass scmd s <;> rw [hpass] at hends huses
    case unfinished => exact notCompleted_of_waits hends
    case failed t => rw [search_failed hpass] at h; cases h
    case returned t =>
      have hrun : run (s.goto (.passReset scmd (some .collect) :: k)) = run (t.goto (.afterPass scmd .collect :: k)) :=
        hends
      rw [hrun]
      by_cases hld : t.ld = ldNone
      · rw [search_none hpass hld] at h; cases h
      by_cases hcount : t.count = BitVec.allOnes 32
      · exact notCompleted_of_refused (run_afterPass_overflow scmd .collect hld hcount)
      have hcount' : t.count.toNat + 1 ≠ 2 ^ 32 := (succ_lt_of_ne_allOnes hcount).ne
      rw [run_afterPass_some k scmd .collect hld hcount]
      simp only [search, hpass, hld, hcount', if_false] at h
      split at h
      · next hnone => exact notCompleted_of_refused (run_collected_none hnone)
      · next u hkept =>
        have hu := collected_eq_some hkept
        split at h
        · cases h
        · next hlast =>
          rw [run_deliver (mode := .collect) hkept, run_loopTest, if_neg hlast]
          refine ih ?_ h
          rw [hu]
          exact Nat.lt_of_succ_le (huses.2.trans (Nat.le_of_lt_succ hn))

/-- A SCAN that ran to its end is a search that ended, and the reports of what it left in the record. -/
theorem exec_scan_finished {s t : State} {alarm : Bool} {fam : Byte} (hs : s.sess = .acquired)
    (h : exec (.scan alarm fam) s = .next t) (hbusy : t.status.busy = false) :
    ∃ v u e, Collecting s v ∧ reported v.scanrec v.unlocked = some u ∧ t = scanEnd u e := by
  have hseq : t.seq = [] := by simpa [hbusy] using (statusWhileInFlight _ s t h).1
  have hreports {v : State} {e : Err} (hr : ReportsAs (exec (.scan alarm fam) s) e (reported v.scanrec v.unlocked)) :
      ∃ u, reported v.scanrec v.unlocked = some u ∧ t = scanEnd u e := by
    cases hu : reported v.scanrec v.unlocked <;> rw [hu] at hr
    case none => exact absurd hseq (notCompleted_of_waits hr t h)
    case some u => exact ⟨u, rfl, Host.Outcome.next.inj (h.symm.trans hr)⟩
  by_cases hl : s.lockFree = true
  · obtain ⟨n, hn⟩ : ∃ n, (fresh (opened s.beginScan)).bus.answers.length < n := ⟨_, Nat.lt_succ_self _⟩
    have hcollecting := leaves_search (searchCommand s.params alarm) n (collecting_begun s)
    cases hsearch : search (searchCommand s.params alarm) .collect n (fresh (opened s.beginScan)) <;>
      rw [hsearch] at hcollecting
    case returned v =>
      obtain ⟨u, hu, ht⟩ := hreports (exec_scan_returned hl hs hsearch)
      exact ⟨v, u, _, hcollecting, hu, ht⟩
    case failed v =>
      obtain ⟨u, hu, ht⟩ := hreports (exec_scan_failed hl hs hsearch)
      exact ⟨v, u, _, hcollecting, hu, ht⟩
    case unfinished =>
      rw [exec_scan_opened hl hs] at h
      exact absurd hseq (run_search_unfinished hn hsearch t h)
  · rw [exec_scan_begun hs] at h
    cases h.symm.trans (run_lock_blocked (s := s.beginScan.issue []) (Bool.not_eq_true _ ▸ hl))
    cases hseq

/-! #### What the reports put in the output -/

/-- Each entry is reported by one event; the count and `QUIRK` stay. -/
theorem reported_reportedIn {todo : List Identifier} {s u : State} (h : reported todo s = some u) :
    reportedIn u.log = reportedIn s.log ++ todo ∧ foundIn u.log = foundIn s.log ∧ u.count = s.count ∧
      u.quirk = s.quirk := by
  induction todo generalizing s with
  | nil =>
    cases h
    exact ⟨(List.append_nil _).symm, rfl, rfl, rfl⟩
  | cons i todo ih =>
    rcases host_takes_or_waits s with ⟨a, rest, hhost, ha⟩ | hwaits
    · rw [reported_cons_taken hhost ha] at h
      obtain ⟨hreported, hfound, hcount, hquirk⟩ := ih h
      rw [hreported, hfound, hcount, hquirk]
      split <;> simp [State.reporting, reportedIn, foundIn]
    · rw [reported_cons_waits hwaits] at h
      cases h

/-- Settles O51: the record as the search left it is what is reported. -/
theorem scanReportsAllItCounted : Obligations.ScanReportsAllItCounted := by
  intro s t alarm fam l hs h hbusy hl
  obtain ⟨v, u, e, hv, hu, rfl⟩ := exec_scan_finished hs h hbusy
  obtain ⟨hreported, hfound, hcount, hquirk⟩ := reported_reportedIn hu
  have hlog : u.log = l ++ s.log := hl
  have hrecord : reportedIn l = v.scanrec := by
    refine List.append_cancel_left (as := reportedIn s.log) ?_
    rw [← reportedIn_append, ← hlog, hreported, ← hv.reported]
    simp [reportedIn]
  have hnone : foundIn l = [] := by
    refine List.append_cancel_left (as := foundIn s.log) ?_
    rw [← foundIn_append, ← hlog, hfound, ← hv.found]
    simp [foundIn]
  rw [hrecord]
  exact ⟨((congrArg _ hcount).trans hv.count).symm, hquirk.trans hv.quirk, rfl, rfl, hnone⟩

/-! ### The session state machine (R190, R230) -/

/-- The operations that take the session away and end with a step that brings it home: SCAN and RELEASE. -/
inductive BringsHome : Session → Session → Prop
  | scan : BringsHome .scanning .acquired
  | release : BringsHome .released .idle

/-- In the middle of such an operation the session is `away`; from its last step on it is `home`, only the completion
being left to do. -/
structure AwayOrHome (away home : Session) (s : State) : Prop where
  sequenced : s.Sequenced
  noAcquire : .set .acquire ∉ s.seq
  session : (s.sess = away ∧ sessionMatches away s.seq.getLast? = true) ∨
    (s.sess = home ∧ (s.seq = [] ∨ ∃ e, s.seq = [.finish e]))

/-- A step of the entry that ends such an operation, while the session is away. -/
theorem Replaces.away {away home : Session} {s₀ : State} {u : UOp} {l : List UOp} (hb : BringsHome away home)
    (h : Replaces s₀ u l) (hm : sessionMatches away (some u) = true) (s : State) :
    ((u.effect s).sess = s.sess ∧ sessionMatches away l.getLast? = true) ∨
      ((u.effect s).sess = home ∧ ∃ e, l = [.finish e]) := by
  cases hb with
  | scan =>
    cases h with
    | scanEnd e => exact .inr ⟨rfl, e, rfl⟩
    | beginRelease | released | idle | beginScan | finish => cases hm
    | _ => exact .inl ⟨rfl, rfl⟩
  | release =>
    cases h with
    | idle e => exact .inr ⟨rfl, e, rfl⟩
    | released => exact .inl ⟨rfl, rfl⟩
    | _ => cases hm

theorem Asked.sess {s s' : State} (h : Asked s s') : s'.sess = s.sess := by
  obtain ⟨b, l, rfl, -⟩ := h.eq_bus_log
  rfl

theorem transact_awayOrHome {away home : Session} {s t : State} (hb : BringsHome away home)
    (hs : AwayOrHome away home s) (h : transact s = .moved t) : AwayOrHome away home t := by
  obtain ⟨hsq, hna, hsess⟩ := hs
  have ht := transact_sequenced hsq h
  obtain ⟨u, k, s', k', hseq, hask, rfl, -, ⟨hu, hc⟩ | ⟨rfl, hr⟩⟩ := transact_cases hsq h <;> rw [hseq] at hna hsess
  · refine ⟨ht, fun ha => hna (hc.acquiring ha), ?_⟩
    rcases hsess with ⟨haway, hm⟩ | ⟨-, hnil | ⟨e, hfinish⟩⟩
    · obtain ⟨-, hends⟩ | ⟨-, hk, -⟩ := wellSequenced_cons (hsq.wellSequenced_of_seq hseq)
      · simp [hu] at hends
      have hne : u ≠ .set .acquire := by
        rintro rfl
        exact hna List.mem_cons_self
      refine .inl ⟨(UOp.effect_sess s' u hu hne).trans (hask.sess.trans haway), ?_⟩
      rw [State.goto_seq, hc.session, ← getLast?_cons_of_ne_nil (u := u) (wellSequenced_ne_nil hk), hm]
    · cases hnil
    · cases hfinish
      cases hu
  · refine ⟨ht, by cases hr <;> simp [searchBody], ?_⟩
    rcases hsess with ⟨haway, hm⟩ | ⟨hhome, hnil | ⟨e, hfinish⟩⟩
    · exact (hr.away hb hm s').imp (fun ⟨hstay, hl⟩ => ⟨hstay.trans (hask.sess.trans haway), hl⟩)
        fun ⟨hhome, hl⟩ => ⟨hhome, .inr hl⟩
    · cases hnil
    · cases hfinish
      cases hr
      exact .inr ⟨hask.sess.trans hhome, .inl rfl⟩

/-- Where such an operation waits the session is away, and where it has ended the session is home. -/
theorem run_awayOrHome {away home : Session} {s t : State} (hb : BringsHome away home)
    (hs : AwayOrHome away home s) (h : run s = .next t) : t.sess = if t.status.busy then away else home := by
  obtain ⟨⟨hsq, -, hsess⟩, hwaits⟩ := run_induct (fun _ _ => transact_awayOrHome hb) hs h
  rcases hsess with ⟨haway, hm⟩ | ⟨hhome, hnil | ⟨e, hfinish⟩⟩
  · have hne : t.seq ≠ [] := by
      intro hnil
      rw [hnil] at hm
      cases hb <;> cases hm
    rw [hsq.busy, haway]
    simp [hne]
  · rw [hsq.busy, hnil, hhome]
    rfl
  · simp [transact, hfinish] at hwaits

theorem exec_scan_sess {s t : State} {alarm : Bool} {fam : Byte} (hs : s.sess = .acquired)
    (h : exec (.scan alarm fam) s = .next t) : t.sess = if t.status.busy then .scanning else .acquired := by
  rw [exec_scan_begun hs] at h
  refine run_awayOrHome .scan ⟨⟨rfl, fun _ => ⟨rfl, rfl⟩, .inr rfl, rfl⟩, ?_, .inl ⟨rfl, rfl⟩⟩ h
  simp [searchBody]

theorem exec_release_sess {s t : State} (hs : s.sess = .acquired) (h : exec .release s = .next t) :
    t.sess = if t.status.busy then .released else .idle := by
  rw [exec_release_begun hs] at h
  refine run_awayOrHome .release ⟨⟨rfl, fun _ => ⟨rfl, rfl⟩, .inr rfl, rfl⟩, ?_, .inl ⟨rfl, rfl⟩⟩ h
  simp

theorem run_resumePower_unanswered {s : State} {k : List UOp} (h : s.ask .resumePower = none) :
    run (s.goto (.resumePower :: k)) = .next (s.goto (.resumePower :: k)) :=
  run_waiting (by simp only [transact, State.goto_seq, stepResumePower]; exact State.askOr_goto_none _ _ h)

theorem run_resetIgnored_unanswered {s : State} {k : List UOp} (h : s.ask .reset = none) :
    run (s.goto (.resetIgnored :: k)) = .next (s.goto (.resetIgnored :: k)) :=
  run_waiting (by simp only [transact, State.goto_seq, stepResetIgnored]; exact State.askOr_goto_none _ _ h)

/-- An ACQUIRE in an Idle session leaves it so where it waits or a call of it fails. -/
theorem exec_acquire_sess {s t : State} (hs : s.sess = .idle) (h : exec .acquire s = .next t) :
    t.sess = s.sess ∨ (t.sess = .acquired ∧ t.status.busy = false ∧ t.status.err = .ok) := by
  by_cases hl : s.lockFree = true
  · rcases hpower : (opened s).ask .resumePower with _ | ⟨r, u⟩
    · rw [exec_acquire_opened hl hs, run_resumePower_unanswered hpower] at h
      cases h
      exact .inl rfl
    have hu := (PassFrame.of_ask hpower).session.1
    by_cases hr : r = .fail
    · rw [hr] at hpower
      cases h.symm.trans (exec_acquire_unpowered hl hs hpower)
      exact .inl hu
    rw [exec_acquire_powered hl hs hpower hr] at h
    rcases hreset : (u.record (.settle s.params.tSettle)).ask .reset with _ | ⟨r', v⟩
    · rw [run_resetIgnored_unanswered hreset] at h
      cases h
      exact .inl hu
    by_cases hr' : r' = .fail
    · rw [hr'] at hreset
      rw [run_resetIgnored_fail hreset] at h
      cases h.symm.trans (run_acquireEnd_raised v)
      exact .inl ((PassFrame.of_ask hreset).session.1.trans hu)
    · rw [run_resetIgnored hreset hr'] at h
      cases h.symm.trans (run_acquireEnd v)
      exact .inr ⟨rfl, rfl, rfl⟩
  · have hblocked : exec .acquire s = _ :=
      (if_pos hs).trans (run_lock_blocked (s := s.issue []) (Bool.not_eq_true _ ▸ hl))
    cases h.symm.trans hblocked
    exact .inl rfl

/-- Settles O53: SCAN and RELEASE by what holds all through them, ACQUIRE by its outcomes; no other operation has an
entry that writes `SESS`. -/
theorem sessionTransitions : Obligations.SessionTransitions := by
  intro i s t h
  cases i with
  | acquire =>
    by_cases hs : s.sess = .idle
    · exact (exec_acquire_sess hs h).imp_right fun hend => ⟨hs, hend⟩
    · cases h.symm.trans (exec_acquire_misuse hs)
      exact .inl rfl
  | scan =>
    by_cases hs : s.sess = .acquired
    · exact (if_pos hs).mpr (exec_scan_sess hs h)
    · cases h.symm.trans (exec_scan_notAcquired hs)
      exact (if_neg hs).mpr rfl
  | release =>
    by_cases hs : s.sess = .acquired
    · exact (if_pos hs).mpr (exec_release_sess hs h)
    · cases h.symm.trans (exec_release_notAcquired hs)
      exact (if_neg hs).mpr rfl
  | _ => exact (exec_untouched h).sess nofun nofun (by simp [loopsIn])

end Sys2Proof.Machine
end

section
/-! PROOFS. The statements of spec/60_exceptions.md: the errors an operation can complete with (R220, R221, R228). -/

namespace Sys2Proof.Machine

/-! ### The errors the contents of the sequencer can lead to -/

/-- The errors that an entry, with the steps it leads to, can raise or complete with (R220). The failures of the quirk
step are caught in it (R194). -/
def UOp.errors : UOp → List Err
  | .unlock | .quirkCatch _ => []
  | .resetAddressed | .select => [.noPresence, .busIoFailure]
  | .readId | .checksum _ => [.checksumMismatch, .busIoFailure]
  | .beginRelease | .beginScan _ | .scanQuirk _ | .scanRecord _ => [.ok, .busIoFailure]
  | .released e | .idle e | .scanCatch e | .report e _ | .emitReport e _ | .awaitReport e _ | .reportFailed e _
  | .scanEnd e | .finish e => [e]
  | _ => [.busIoFailure]

/-- The quirk step ends among these steps: an error raised before its end arrives there as a warning (R194). -/
def catchesError : List UOp → Bool
  | [] => false
  | .quirkCatch _ :: _ => true
  | _ :: k => catchesError k

/-- The errors that an operation with these steps still to make can complete with. -/
def errorsOf : List UOp → List Err
  | [] => []
  | u :: k => (if catchesError k then [] else u.errors) ++ errorsOf k

theorem catchesError_append (l k : List UOp) : catchesError (l ++ k) = (catchesError l || catchesError k) := by
  induction l with
  | nil => rfl
  | cons u l ih => cases u <;> simp [catchesError, ih]

theorem mem_errorsOf_append {l k : List UOp} {e : Err} (h : e ∈ errorsOf (l ++ k)) :
    (catchesError k = false ∧ e ∈ errorsOf l) ∨ e ∈ errorsOf k := by
  induction l with
  | nil => exact .inr h
  | cons u l ih =>
    rw [List.cons_append, errorsOf, catchesError_append, List.mem_append] at h
    rcases h with h | h
    · cases hk : catchesError k <;> simp_all [errorsOf]
    · exact (ih h).imp_left fun ⟨hk, hl⟩ => ⟨hk, List.mem_append_right _ hl⟩

theorem errorsOf_append_subset {u : UOp} {l : List UOp} (k : List UOp) (h : errorsOf l ⊆ u.errors) :
    errorsOf (l ++ k) ⊆ errorsOf (u :: k) := by
  intro e he
  rw [errorsOf, List.mem_append]
  rcases mem_errorsOf_append he with ⟨hk, hl⟩ | hk
  · exact .inl (by simpa [hk] using h hl)
  · exact .inr hk

/-- What a raise leaves to be made can end in the errors that were to come or, unless it is caught, in the error
raised. -/
theorem mem_errorsOf_unwind {e e' : Err} {k : List UOp} (h : e' ∈ errorsOf (unwind e k)) :
    (catchesError k = false ∧ e' = e) ∨ e' ∈ errorsOf k := by
  induction k with
  | nil => exact .inl ⟨rfl, List.mem_singleton.1 h⟩
  | cons u k ih =>
    cases u with
    | unlock => simpa [errorsOf, catchesError, UOp.errors] using ih (by simpa [unwind, errorsOf, UOp.errors] using h)
    | quirkCatch => exact .inr h
    | scanCatch | released | finish =>
      rw [unwind, errorsOf, List.mem_append] at h
      refine h.imp (fun h => ?_) (List.mem_append_right _)
      cases hk : catchesError k <;> simp_all [catchesError, UOp.errors]
    | _ => exact (ih h).imp id (List.mem_append_right _)

theorem errorsOf_unwind_subset {u : UOp} {e : Err} (k : List UOp) (he : e ∈ u.errors) :
    errorsOf (unwind e k) ⊆ errorsOf (u :: k) := by
  intro e' he'
  rw [errorsOf, List.mem_append]
  rcases mem_errorsOf_unwind he' with ⟨hk, rfl⟩ | hk
  · exact .inl (by simpa [hk] using he)
  · exact .inr hk

theorem Pushes.errors {s : State} {u : UOp} {l : List UOp} (h : Pushes s u l) : errorsOf l ⊆ u.errors := by
  cases h with
  | select =>
    unfold selectFrame
    split <;> simp [matchFrame, skipFrame, errorsOf, catchesError, UOp.errors]
  | quirkStep => simp [quirkFrame, skipFrame, errorsOf, catchesError, UOp.errors]
  | passReset scmd after | noPresence scmd after =>
    cases after <;> simp [afterReset, errorsOf, catchesError, UOp.errors]
  | passWrite =>
    unfold afterWrite
    split <;> simp [errorsOf, catchesError, UOp.errors]
  | afterPass scmd mode => cases mode <;> simp [deliver, errorsOf, catchesError, UOp.errors]
  | _ => simp [errorsOf, catchesError, UOp.errors]

theorem Replaces.errors {s : State} {u : UOp} {l : List UOp} (h : Replaces s u l) : errorsOf l ⊆ u.errors := by
  cases h <;> simp [searchBody, errorsOf, catchesError, UOp.errors]

/-- A raise leaves no more to be done than there was. -/
theorem unwind_length (e : Err) {k : List UOp} (h : wellSequenced k = true) : (unwind e k).length ≤ k.length := by
  induction k with
  | nil => cases h
  | cons u k ih =>
    rcases wellSequenced_cons h with ⟨rfl, hu⟩ | ⟨-, hk, -⟩
    · cases u <;> simp_all [unwind, UOp.ends]
    · have ih := ih hk
      cases u <;> simp only [unwind, List.length_cons] <;> omega

/-- A guarded call that moved on raised BusIoFailure, or went on with the reply. -/
theorem State.askOr_raises_or_keeps {s t : State} {c : Call} {u : UOp} {k : List UOp} {go : Reply → State → Progress}
    (h : s.askOr c k go = .moved t)
    (hgo : ∀ r s', go r s' = .moved t → (∃ e ∈ u.errors, t.seq = unwind e k) ∨ k <:+ t.seq)
    (hio : .busIoFailure ∈ u.errors := by simp [UOp.errors]) :
    (∃ e ∈ u.errors, t.seq = unwind e k) ∨ k <:+ t.seq := by
  obtain ⟨r, s', -, rfl | hg⟩ := State.askOr_moved h
  · exact .inl ⟨_, hio, rfl⟩
  · exact hgo r s' hg

/-- The step of an entry in the middle of an operation raises one of the entry's errors, or keeps what was to come. -/
theorem transact_raises_or_keeps {s t : State} {u : UOp} {k : List UOp} (hs : s.seq = u :: k) (hu : u.ends = false)
    (h : transact s = .moved t) : (∃ e ∈ u.errors, t.seq = unwind e k) ∨ k <:+ t.seq := by
  cases u <;> simp only [transact, hs] at h
  case unlock | set | settle => cases h; exact .inr List.suffix_rfl
  case select => cases h; exact .inr (List.suffix_append _ k)
  case emitFound => cases h; exact .inr (List.suffix_cons _ k)
  case lock | countUp | append | awaitFound =>
    simp only [stepLock, stepCountUp, stepAppend, stepAwaitFound] at h
    repeat' split at h
    all_goals cases h
    exact .inr List.suffix_rfl
  case quirkCatch failed => cases failed <;> cases h <;> exact .inr List.suffix_rfl
  case quirkStep =>
    simp only [stepQuirkStep] at h
    split at h <;> cases h
    · exact .inr (List.suffix_append _ k)
    · exact .inr List.suffix_rfl
  case afterPass scmd mode =>
    simp only [stepAfterPass] at h
    split at h <;> cases h
    · exact .inr List.suffix_rfl
    · exact .inr ⟨.countUp :: .set .identify :: (deliver mode ++ [.loopTest scmd mode]), by simp⟩
  case loopTest =>
    simp only [stepLoopTest] at h
    split at h <;> cases h
    · exact .inr List.suffix_rfl
    · exact .inr (List.suffix_cons _ k)
  case checksum =>
    simp only [stepChecksum] at h
    split at h <;> cases h
    · exact .inr (List.suffix_cons _ k)
    · exact .inl ⟨_, by simp [UOp.errors], rfl⟩
  case resetAddressed =>
    refine State.askOr_raises_or_keeps h fun r s' hg => ?_
    split at hg <;> cases hg
    · exact .inr List.suffix_rfl
    · exact .inl ⟨_, by simp [UOp.errors], rfl⟩
  case writeTx =>
    simp only [stepWriteTx] at h
    split at h
    · cases h
    · exact State.askOr_raises_or_keeps h fun r s' hg => by
        cases hg; exact .inr List.suffix_rfl
  case resetIgnored | writeByte | writeId | resumePower | suspendPower =>
    exact State.askOr_raises_or_keeps h fun r s' hg => by
      cases hg; exact .inr List.suffix_rfl
  case readId | readRx | passCommand | passTrue =>
    exact State.askOr_raises_or_keeps h fun r s' hg => by
      cases hg; exact .inr (List.suffix_cons _ k)
  case passWrite =>
    exact State.askOr_raises_or_keeps h fun r s' hg => by
      cases hg; exact .inr ((List.suffix_cons _ k).trans (List.suffix_cons _ _))
  case passReset scmd after =>
    refine State.askOr_raises_or_keeps h fun r s' hg => .inr ?_
    have hk : k <:+ afterReset scmd after k := afterReset_append scmd after k ▸ List.suffix_append _ k
    split at hg <;> cases hg <;> exact hk.trans (List.suffix_cons _ _)
  case passComplement =>
    refine State.askOr_raises_or_keeps h fun r s' hg => .inr ?_
    repeat' split at hg
    all_goals cases hg; exact List.suffix_cons _ k
  all_goals cases hu

/-- A step leads to no error that was not to come before it. -/
theorem transact_errors {s t : State} {u : UOp} {k : List UOp} (hseq : s.seq = u :: k)
    (hs : wellSequenced (u :: k) = true) (h : transact s = .moved t) : errorsOf t.seq ⊆ errorsOf (u :: k) := by
  have hrest : errorsOf k ⊆ errorsOf (u :: k) := List.subset_append_right _ _
  obtain ⟨s', k', -, hk, rfl⟩ := transact_sequel hseq h
  rw [State.goto_seq]
  cases hk with
  | rest => exact hrest
  | pushed hl => exact errorsOf_append_subset k hl.errors
  | replaced hl =>
    rcases wellSequenced_cons hs with ⟨rfl, -⟩ | ⟨hu, -⟩
    · simpa using errorsOf_append_subset [] hl.errors
    · simp [hl.ends] at hu
  | raised hu e =>
    rcases wellSequenced_cons hs with ⟨-, hu'⟩ | ⟨-, hk, -⟩
    · simp [hu] at hu'
    rcases transact_raises_or_keeps hseq hu h with ⟨e', he', hraised⟩ | hkept
    · rw [State.goto_seq] at hraised
      exact hraised ▸ errorsOf_unwind_subset k he'
    · rw [State.goto_seq] at hkept
      exact hkept.eq_of_length_le (unwind_length e hk) ▸ hrest

/-! ### From the issue to the completion -/

theorem program_errors (s : State) (i : Instr) : errorsOf (programOf s i) ⊆ possibleErrors i := by
  cases i with
  | writeRead resp => cases resp <;> simp [programOf, errorsOf, catchesError, UOp.errors, possibleErrors]
  | _ => simp [programOf, searchBody, matchFrame, skipFrame, errorsOf, catchesError, UOp.errors, possibleErrors]

/-- An operation with a next state runs its program, or is rejected with an error of its own. -/
theorem exec_program_or_own_error {i : Instr} {s t : State} (h : exec i s = .next t) :
    run (s.issue (programOf s i)) = .next t ∨ ∃ e ∈ possibleErrors i, t = s.reject e := by
  cases i with
  | searchPass | acquire | release | scan =>
    simp only [exec, execSearchPass, execAcquire, execRelease, execScan] at h
    split at h
    · exact .inl h
    · cases h
      exact .inr ⟨_, by simp [possibleErrors], rfl⟩
  | writeRead =>
    simp only [exec, execWriteRead] at h
    split at h
    · cases h
    · split at h
      · cases h
      · exact .inl h
  | _ => exact .inl h

/-- The errors the operation can still complete with are its own, and so is the one it has completed with. -/
structure EndsInOwnError (i : Instr) (s : State) : Prop where
  sequenced : s.Sequenced
  toCome : errorsOf s.seq ⊆ possibleErrors i
  completed : s.seq = [] → s.status.done = true ∧ s.status.err ∈ possibleErrors i

/-- Every step of the sequencer: only the last entry's, `finish`, completes the operation. -/
theorem transact_endsInOwnError {i : Instr} {s t : State} (hs : EndsInOwnError i s) (h : transact s = .moved t) :
    EndsInOwnError i t := by
  obtain ⟨hsq, herr, -⟩ := hs
  have ht := transact_sequenced hsq h
  obtain ⟨u, k, s', k', hseq, -, rfl, -, ⟨-, hc⟩ | ⟨rfl, hr⟩⟩ := transact_cases hsq h
  all_goals
    rw [hseq] at herr
    refine ⟨ht, List.Subset.trans (transact_errors hseq (hsq.wellSequenced_of_seq hseq) h) herr, ?_⟩
  · exact fun hnil => absurd hnil (wellSequenced_ne_nil hc.sequenced)
  · cases hr with
    | finish e => exact fun _ => ⟨rfl, herr List.mem_cons_self⟩
    | _ => simp [searchBody]

/-- Settles O54: the errors an operation's program can lead to are its own, every step keeps them among those, and it
completes with one that is left. -/
theorem errorsByOperation : Obligations.ErrorsByOperation := by
  intro i s t h hidle
  rcases exec_program_or_own_error h with h | ⟨e, he, rfl⟩
  · have hissue : EndsInOwnError i (s.issue (programOf s i)) :=
      ⟨issue_sequenced s i, program_errors s i,
        fun hnil => absurd hnil (wellSequenced_ne_nil (program_wellSequenced s i))⟩
    have ht := (run_induct (fun _ _ => transact_endsInOwnError) hissue h).1
    exact ht.completed (by simpa [hidle] using ht.sequenced.busy.symm)
  · exact ⟨rfl, he⟩

end Sys2Proof.Machine
end

section
/-! PROOFS. The statements of spec/70_reset_and_hazards.md: the port calls that only some operations make, and the one
that none makes (R273, R141). -/

namespace Sys2Proof.Machine

/-! ### What each entry of the sequencer can put in the output -/

/-- The step of the entry can put this in the output. -/
inductive Puts : UOp → Event → Prop
  | lock : Puts .lock .lock
  | unlock : Puts .unlock .unlock
  | resetAddressed (r : Reply) : Puts .resetAddressed (.call .reset r)
  | resetIgnored (r : Reply) : Puts .resetIgnored (.call .reset r)
  | writeByte (v : Byte) (r : Reply) : Puts (.writeByte v) (.call (.writeByte v) r)
  | writeId (bs : List Byte) (r : Reply) : Puts .writeId (.call (.writeBlock bs) r)
  | readId (r : Reply) : Puts .readId (.call (.readBlock 8) r)
  | checksum (bs : List Byte) (c : Byte) : Puts (.checksum bs) (.checksum bs c)
  | writeTx (bs : List Byte) (r : Reply) : Puts .writeTx (.call (.writeBlock bs) r)
  | readRx (n : Nat) (r : Reply) : Puts .readRx (.call (.readBlock n) r)
  | resumePower (r : Reply) : Puts .resumePower (.call .resumePower r)
  | settle (delay : Nat) : Puts .settle (.settle delay)
  | quirkCatch : Puts (.quirkCatch true) (.warn .quirk)
  | suspendPower (r : Reply) : Puts .suspendPower (.call .suspendPower r)
  | passReset (scmd : Byte) (after : Option SearchMode) (r : Reply) : Puts (.passReset scmd after) (.call .reset r)
  | passCommand (scmd : Byte) (r : Reply) : Puts (.passCommand scmd) (.call (.writeByte scmd) r)
  | passTrue (pos : Nat) (next : Discrepancy) (r : Reply) : Puts (.passTrue pos next) (.call .readBit r)
  | passComplement (pos : Nat) (next : Discrepancy) (b : Bool) (r : Reply) :
      Puts (.passComplement pos next b) (.call .readBit r)
  | passWrite (pos : Nat) (next : Discrepancy) (d : Bool) (r : Reply) :
      Puts (.passWrite pos next d) (.call (.writeBit d) r)
  | emitFound (i : Identifier) : Puts .emitFound (.found i)
  | emitReport (e : Err) (todo : List Identifier) (i : Identifier) : Puts (.emitReport e todo) (.report i)
  | reportFailed (e : Err) (todo : List Identifier) : Puts (.reportFailed e todo) (.warn .callback)

/-- The output of `t` is that of `s` with nothing but entries of the given kind put before it. -/
def Gains (P : Event → Prop) (s t : State) : Prop := ∃ l, Gained s t l ∧ ∀ e ∈ l, P e

namespace Gains
variable {P Q : Event → Prop} {s t u : State}

theorem of_log_eq (h : t.log = s.log) : Gains P s t := ⟨[], h, by simp⟩

theorem of_log_cons {e : Event} (he : P e) (h : t.log = e :: s.log) : Gains P s t := ⟨[e], h, by simpa⟩

theorem trans (h₁ : Gains P s t) (h₂ : Gains P t u) : Gains P s u := by
  obtain ⟨l₁, hl₁, hp₁⟩ := h₁
  obtain ⟨l₂, hl₂, hp₂⟩ := h₂
  exact ⟨l₂ ++ l₁, by rw [Gained, hl₂, hl₁, List.append_assoc], List.forall_mem_append.2 ⟨hp₂, hp₁⟩⟩

theorem imp (h : Gains P s t) (himp : ∀ e, P e → Q e) : Gains Q s t := by
  obtain ⟨l, hl, hp⟩ := h
  exact ⟨l, hl, fun e he => himp e (hp e he)⟩

/-- What a known gain holds. -/
theorem mem {l : List Event} (h : Gains P s t) (hl : Gained s t l) : ∀ e ∈ l, P e := by
  obtain ⟨l', hl', hp⟩ := h
  obtain rfl := List.append_cancel_right (hl.symm.trans hl')
  exact hp

end Gains

/-- A guarded call puts itself in the output, if what goes on with its reply adds nothing. -/
theorem State.askOr_gains {s t : State} {u : UOp} {c : Call} {k : List UOp} {go : Reply → State → Progress}
    (h : s.askOr c k go = .moved t) (hc : ∀ r, Puts u (.call c r))
    (hgo : ∀ r s', go r s' = .moved t → t.log = s'.log) : Gains (Puts u) s t := by
  obtain ⟨r, s', ha, rfl | hg⟩ := State.askOr_moved h
  · exact .of_log_cons (hc r) ((State.goto_log ..).trans (State.ask_log ha))
  · exact .of_log_cons (hc r) ((hgo r s' hg).trans (State.ask_log ha))

/-- A guarded call after whose reply only the sequencer changes. -/
theorem State.askOr_goto_gains {s t : State} {u : UOp} {c : Call} {k : List UOp} {j : Reply → State → List UOp}
    (h : (s.askOr c k fun r s' => .moved (s'.goto (j r s'))) = .moved t) (hc : ∀ r, Puts u (.call c r)) :
    Gains (Puts u) s t :=
  State.askOr_gains h hc fun r s' hg => by cases hg; rfl

theorem exists_seq_cons_of_moved {s t : State} (h : transact s = .moved t) : ∃ u k, s.seq = u :: k := by
  rcases hs : s.seq with _ | ⟨u, k⟩
  · simp [transact, hs] at h
  · exact ⟨u, k, rfl⟩

/-- Every step of the sequencer. -/
theorem transact_gains {s t : State} {u : UOp} {k : List UOp} (hs : s.seq = u :: k) (h : transact s = .moved t) :
    Gains (Puts u) s t := by
  cases u <;> simp only [transact, hs] at h
  case lock =>
    simp only [stepLock] at h
    split at h <;> cases h
    exact .of_log_cons .lock rfl
  case unlock => cases h; exact .of_log_cons .unlock rfl
  case settle => cases h; exact .of_log_cons (.settle _) rfl
  case emitFound => cases h; exact .of_log_cons (.emitFound _) rfl
  case emitReport => cases h; exact .of_log_cons (.emitReport _ _ _) rfl
  case reportFailed => cases h; exact .of_log_cons (.reportFailed _ _) rfl
  case checksum bs =>
    simp only [stepChecksum] at h
    split at h <;> cases h <;> exact .of_log_cons (.checksum bs _) rfl
  case quirkCatch failed =>
    cases failed <;> cases h
    · exact .of_log_eq rfl
    · exact .of_log_cons .quirkCatch rfl
  case set v => cases h; exact .of_log_eq (State.apply_log s v)
  case select | beginRelease | released | idle | beginScan | scanQuirk | scanRecord | scanCatch | scanEnd | finish =>
    cases h; exact .of_log_eq rfl
  case quirkStep | afterPass | loopTest | countUp | append =>
    simp only [stepQuirkStep, stepAfterPass, stepLoopTest, stepCountUp, stepAppend] at h
    split at h <;> cases h <;> exact .of_log_eq rfl
  case report e todo => cases todo <;> cases h <;> exact .of_log_eq rfl
  case awaitFound | awaitReport =>
    simp only [stepAwaitFound, stepAwaitReport] at h
    repeat' split at h
    all_goals cases h
    all_goals exact .of_log_eq rfl
  case resetAddressed | passReset =>
    refine State.askOr_gains h (fun _ => by constructor) fun r s' hg => ?_
    split at hg <;> cases hg <;> rfl
  case passComplement =>
    refine State.askOr_gains h (fun _ => by constructor) fun r s' hg => ?_
    repeat' split at hg
    all_goals cases hg; rfl
  case writeTx =>
    simp only [stepWriteTx] at h
    split at h
    · cases h
    · exact State.askOr_goto_gains h (.writeTx _)
  case resetIgnored | writeByte | writeId | readId | readRx | resumePower | suspendPower | passCommand | passTrue
      | passWrite => exact State.askOr_goto_gains h (fun _ => by constructor)

/-! ### Running on, and the operations -/

/-- Running on puts in the output only what entries of the sequencer put there. -/
theorem run_gains {s t : State} (h : run s = .next t) : Gains (fun e => ∃ u, Puts u e) s t := by
  refine (run_induct (P := Gains _ s) (fun a b ha hm => ha.trans ?_) (.of_log_eq rfl) h).1
  obtain ⟨u, k, hseq⟩ := exists_seq_cons_of_moved hm
  exact (transact_gains hseq hm).imp fun _ he => ⟨u, he⟩

/-- A step of the sequencer leaves entries that the operation uses. -/
theorem transact_usedBy {i : Instr} {s t : State} (hu : ∀ u ∈ s.seq, usedBy i s.rxlen u)
    (h : transact s = .moved t) : ∀ u ∈ t.seq, usedBy i t.rxlen u := by
  obtain ⟨u, k, hseq⟩ := exists_seq_cons_of_moved h
  obtain ⟨s', k', hask, hk, rfl⟩ := transact_sequel hseq h
  obtain ⟨bus, l, rfl, -⟩ := hask.eq_bus_log
  simpa using hk.usedBy (hseq ▸ hu)

/-- An operation puts in the output only what the entries it uses put there. -/
theorem exec_gains {i : Instr} {s t : State} (h : exec i s = .next t) :
    Gains (fun e => ∃ u n, usedBy i n u ∧ Puts u e) s t := by
  rcases exec_program_or_reject h with ⟨-, h⟩ | ⟨e, rfl⟩
  · refine (run_induct (P := fun a => Gains _ s a ∧ ∀ u ∈ a.seq, usedBy i a.rxlen u) (s := s.issue _) ?_
      ⟨.of_log_eq (State.issue_log ..), program_usedBy s i⟩ h).1.1
    rintro a b ⟨ha, hu⟩ hm
    obtain ⟨u, k, hseq⟩ := exists_seq_cons_of_moved hm
    exact ⟨ha.trans ((transact_gains hseq hm).imp fun _ he => ⟨u, _, hu u (by simp [hseq]), he⟩),
      transact_usedBy hu hm⟩
  · exact .of_log_eq rfl

/-! ### A step of the machine -/

/-- All a step can do to the output: run on from a state with the same output, put one host read in it, or nothing. -/
inductive StepOutput (s t : State) : Prop
  | ran (a : State) (log : a.log = s.log) (run : run a = .next t)
  | read (off : Nat) (v : Word) (log : t.log = .hostRead off v :: s.log)
  | silent (log : t.log = s.log)

/-- Only the output of the state before the step counts. -/
theorem StepOutput.of_log_eq {s s' t : State} (h : StepOutput s' t) (hlog : s'.log = s.log) : StepOutput s t := by
  cases h with
  | ran a log run => exact .ran a (log.trans hlog) run
  | read off v log => exact .read off v (hlog ▸ log)
  | silent log => exact .silent (log.trans hlog)

theorem hostRead_stepOutput {off : Nat} {value : Except Fault Word} {s t : State} (h : hostRead off value s = .next t) :
    StepOutput s t := by
  obtain ⟨v, -, rfl⟩ := hostRead_eq_next h
  exact .read off v rfl

theorem command_stepOutput {w : Word} {s t : State} (h : command w s = .next t) : StepOutput s t := by
  unfold command at h
  split at h
  · rcases exec_next_cases h with ⟨prog, h⟩ | ⟨e, rfl⟩
    · exact .ran (s.issue prog) rfl h
    · exact .silent rfl
  · cases h; exact .silent rfl

theorem hostIdle_stepOutput {a : HostInput} {s t : State} (h : hostIdle a s = .next t) : StepOutput s t := by
  cases a <;> simp only [hostIdle] at h
  case write =>
    split at h
    · exact command_stepOutput h
    · exact .silent (writeWord_bus_log (hostWrite_eq_next h)).2
  case writeByte => exact .silent (writeByteAt_bus_log (hostWrite_eq_next h)).2
  case read | readByte => exact hostRead_stepOutput h
  case hardReset => cases h; exact .silent rfl

theorem hostBusy_stepOutput {a : HostInput} {s t : State} (h : hostBusy a s = .next t) : StepOutput s t := by
  cases a <;> simp only [hostBusy] at h
  case write | writeByte => cases h; exact .silent rfl
  case read | readByte => exact hostRead_stepOutput h
  case hardReset => cases h

/-- Every step of the machine. Taking an access off the host's list does nothing to the output. -/
theorem step_stepOutput {s t : State} (h : step s = .next t) : StepOutput s t := by
  rcases step_next_cases h with ⟨-, -, h⟩ | ⟨-, -, a, rest, -, h⟩ | ⟨-, a, rest, -, h⟩ | ⟨-, -, rfl⟩
  · exact .ran s rfl h
  · exact (hostBusy_stepOutput h).of_log_eq rfl
  · exact (hostIdle_stepOutput h).of_log_eq rfl
  · exact .silent rfl

/-! ### The calls of each kind (R273, R141) -/

section
variable {i : Instr} {n : Nat} {u : UOp} {e : Event}

/-- No entry makes `T.read_byte()`. -/
theorem Puts.not_isReadByte (h : Puts u e) : isReadByte e = false := by cases h <;> rfl

/-- The operation that uses an entry which makes `T.resume_power()`, `T.suspend_power()`, or the checksum call. -/
theorem Puts.eq_acquire (h : Puts u e) (hu : usedBy i n u) (he : isResumePower e = true) : i = .acquire := by
  cases h with
  | resumePower => exact hu
  | _ => cases he

theorem Puts.eq_release (h : Puts u e) (hu : usedBy i n u) (he : isSuspendPower e = true) : i = .release := by
  cases h with
  | suspendPower => exact hu
  | _ => cases he

theorem Puts.eq_readId (h : Puts u e) (hu : usedBy i n u) (he : isChecksum e = true) : i = .readId := by
  cases h with
  | checksum => exact hu
  | _ => cases he

end

/-- No step of the machine makes `T.read_byte()`: a step runs entries of the sequencer, or serves a host read. -/
theorem step_gains_not_isReadByte {s t : State} (h : step s = .next t) : Gains (isReadByte · = false) s t := by
  cases step_stepOutput h with
  | ran a log h => exact (Gains.of_log_eq log).trans ((run_gains h).imp fun _ ⟨_, hu⟩ => hu.not_isReadByte)
  | read off v log => exact .of_log_cons rfl log
  | silent log => exact .of_log_eq log

/-- An operation puts nothing of a kind in the output that only the entries used by another operation put there. -/
theorem any_eq_false_of_exec {i j : Instr} {s t : State} {l : List Event} {p : Event → Bool}
    (h : exec i s = .next t) (hl : Gained s t l)
    (hp : ∀ {n u e}, Puts u e → usedBy i n u → p e = true → i = j) (hij : i ≠ j) : l.any p = false := by
  refine List.any_eq_false.2 fun e he hpe => hij ?_
  obtain ⟨u, n, hu, hput⟩ := (exec_gains h).mem hl e he
  exact hp hput hu hpe

/-- Settles O21: no entry of the sequencer makes `T.read_byte()`, and the entries that make the power calls and the
checksum call are used by ACQUIRE, by RELEASE and by READ_ID only. -/
theorem callsTheEngineNeverMakes : Obligations.CallsTheEngineNeverMakes :=
  ⟨fun _ _ _ h hl => List.any_eq_false.2 fun e he => Bool.eq_false_iff.1 ((step_gains_not_isReadByte h).mem hl e he),
    fun _ _ _ _ h hl => ⟨any_eq_false_of_exec h hl Puts.eq_acquire, any_eq_false_of_exec h hl Puts.eq_release,
      any_eq_false_of_exec h hl Puts.eq_readId⟩⟩

end Sys2Proof.Machine
end
